-- ==== Sys2Proof/Word.lean ====
section
/-! DEFINITION. The words of the block: bytes, the two integer widths of the header, lines of a name table, buffers of
a fixed size (00_scope.md R11, 10_state.md R37 to R41). -/

namespace Sys2Proof

/-- A byte, an unsigned integer 0..255 (R11, R144 (a)). -/
abbrev Byte := BitVec 8

/-- `u16` of R11: commands, body lengths, sizes. -/
abbrev U16 := BitVec 16

/-- `u32` of R11: checksums and byte sums. -/
abbrev U32 := BitVec 32

/-- A logical line: a byte string of any length (10_state.md R41). -/
abbrev Line := List Byte

/-- A byte-addressed buffer of exactly `n` bytes (20_memory.md R61). -/
abbrev Buf (n : Nat) := Vector Byte n

end Sys2Proof
end

