-- ==== Sys2Proof/Config.lean ====
section
/-! DEFINITION. The constants of 00_scope.md R6 as named fields, the open parameters of R7 as constants with no body, and
the free values for what the spec leaves unspecified. -/

namespace Sys2Proof

/-- The two admitted values of the open parameter DISCONNECT_OPCODE (R7, R98). -/
inductive DisconnectOpcode where
  | v0017
  | v0004
deriving DecidableEq, Repr, Inhabited

namespace Config

/-- HDR_SIZE, bytes in the frame header (R6). -/
@[simp] abbrev hdrSize : Nat := 8
/-- NCH, channels in a name table (R6). -/
@[simp] abbrev nch : Nat := 64
/-- NLN, lines per channel (R6). -/
@[simp] abbrev nln : Nat := 2
/-- LINE_CONTENT, content bytes per line (R6). -/
@[simp] abbrev lineContent : Nat := 8
/-- LINE_FIELD, content bytes plus one terminator byte (R6). -/
@[simp] abbrev lineField : Nat := 9
/-- REC_RESERVED, reserved bytes after the field (R6). -/
@[simp] abbrev recReserved : Nat := 3
/-- REC_SIZE = LINE_FIELD + REC_RESERVED (R6). -/
@[simp] abbrev recSize : Nat := 12
/-- RNT_SIZE = NCH × NLN × REC_SIZE (R6). -/
@[simp] abbrev rntSize : Nat := 1536
/-- BODY_MAX, the largest body the block sends or accepts (R6). -/
@[simp] abbrev bodyMax : Nat := 1536
/-- The size of TXBUF, HDR_SIZE + BODY_MAX (10_state.md R37). -/
@[simp] abbrev txbufSize : Nat := 1544
/-- LEN_FIELD_MAX, the largest value of the body-length field (R6). -/
@[simp] abbrev lenFieldMax : Nat := 65535
/-- RX_DEADLINE in seconds (R6); no rule computes with it (R331). -/
@[simp] abbrev rxDeadlineSeconds : Nat := 3
/-- TCP_PORT (R6); outside the block. -/
@[simp] abbrev tcpPort : Nat := 9760

/-- OP_NOP (R6). -/
abbrev opNop : U16 := 0x0000#16
/-- OP_ACK (R6). -/
abbrev opAck : U16 := 0x0006#16
/-- OP_RESET_UNIT (R6). -/
abbrev opResetUnit : U16 := 0x000A#16
/-- OP_NAK (R6). -/
abbrev opNak : U16 := 0x0015#16
/-- OP_GET_CHANNEL_NAMES (R6). -/
abbrev opGetChannelNames : U16 := 0x1000#16
/-- OP_SET_CHANNEL_NAMES (R6). -/
abbrev opSetChannelNames : U16 := 0x1001#16
/-- DISCONNECT in one protocol revision (R7). -/
abbrev opDisconnect17 : U16 := 0x0017#16
/-- DISCONNECT in the other protocol revision (R7). -/
abbrev opDisconnect04 : U16 := 0x0004#16

/-- DISCONNECT_OPCODE of this instance: an open parameter, so it has no body [log 3] (R7, R98). -/
opaque disconnectOpcode : DisconnectOpcode

/-- How far LINE_IN_MAX lies above its least value 8: an open parameter [log 17] (R7). -/
opaque lineInExtra : Nat

/-- LINE_IN_MAX, any integer at least 8 (R7). -/
def lineInMax : Nat := 8 + lineInExtra

/-- TICK, the duration of a step: an open parameter no rule uses [log 17] (R7, R331). -/
opaque tick : Nat

/-- HOST_BUS, where on the host's bus a register number is found: an open parameter no rule uses [log 17] (R7). -/
opaque hostBus : Nat → Nat

/-- Free values: what TXBUF holds at and beyond TXLEN after a TX_BUILD (10_state.md R37) [log 7]. -/
opaque freeTxbuf : Nat → Buf txbufSize

/-- Free values: what RXBODY holds after a failed RECEIVE (10_state.md R39) [log 8]. -/
opaque freeRxbody : Nat → Buf bodyMax

/-- Free values: what RXS holds where the spec promises nothing about it (70_reset_and_hazards.md R301, R316)
[log 9] [log 10]. -/
opaque freeStream : Nat → List Byte

end Config

/-- The 16-bit value of a DISCONNECT_OPCODE (30_encoding.md R98). -/
def DisconnectOpcode.code : DisconnectOpcode → U16
  | .v0017 => Config.opDisconnect17
  | .v0004 => Config.opDisconnect04

end Sys2Proof
end

