-- ==== Sys2Proof/Syntax.lean ====
section
/-! DEFINITION. The block's instructions: one constructor per row of spec/opcode_table.json. A wire command is a header
received from the peer, with its length and checksum fields (30_encoding.md R90, R97); a host operation carries the
operands of 30_encoding.md R110. -/

namespace Sys2Proof

/-- A body shape: NONE, coded 0, or RNT, coded 1 (30_encoding.md R96). -/
inductive Shape where
  | none
  | rnt
deriving DecidableEq, Repr

/-- The two lines of one channel, `ln` = 0 and `ln` = 1 (10_state.md R41). -/
structure ChannelName where
  line1 : Line
  line2 : Line
deriving DecidableEq, Repr

/-- A ChannelNameTable: exactly 64 channels of exactly 2 lines (10_state.md R41). -/
abbrev NameTable := Vector ChannelName Config.nch

/-- The instructions. -/
inductive Instr where
  /-- NOP, command 0x0000 (R223). -/
  | nop (bodyLength : U16) (checksum : U32)
  /-- ACK, command 0x0006 (R224). -/
  | ack (bodyLength : U16) (checksum : U32)
  /-- RESET_UNIT, command 0x000A (R225). -/
  | resetUnit (bodyLength : U16) (checksum : U32)
  /-- NAK, command 0x0015 (R226). -/
  | nak (bodyLength : U16) (checksum : U32)
  /-- GET_CHANNEL_NAMES, command 0x1000 (R227). -/
  | getChannelNames (bodyLength : U16) (checksum : U32)
  /-- SET_CHANNEL_NAMES, command 0x1001 (R228). -/
  | setChannelNames (bodyLength : U16) (checksum : U32)
  /-- DISCONNECT as 0x0017, the table's first row of that name (R229). -/
  | disconnect17 (bodyLength : U16) (checksum : U32)
  /-- DISCONNECT as 0x0004, the table's second row of that name (R229). -/
  | disconnect04 (bodyLength : U16) (checksum : U32)
  /-- ENCODE_NAMES(T), selector 1 (R170). -/
  | encodeNames (table : NameTable)
  /-- DECODE_NAMES, selector 2 (R171). -/
  | decodeNames
  /-- SEND(cmd, body), selector 3 (R192). -/
  | send (cmd : U16) (body : Shape)
  /-- RECEIVE(exp), selector 4 (R198). -/
  | receive (exp : Shape)
  /-- SEND_RECEIVE(cmd, body, exp), selector 5 (R215). -/
  | sendReceive (cmd : U16) (body : Shape) (exp : Shape)
  /-- OP_RESET, selector 8 (R242). -/
  | opReset
  /-- OP_GET_NAMES, selector 9 (R244). -/
  | opGetNames
  /-- OP_SET_NAMES(T), selector 10 (R246). -/
  | opSetNames (table : NameTable)
deriving DecidableEq, Repr

end Sys2Proof
end

