-- ==== Sys2Proof/WellFormed.lean ====
section
/-! DEFINITION. Well-formed instructions. Every field has its width by its type; the one bound the spec sets beside the
widths is LINE_IN_MAX on the lines a host presents (00_scope.md R7, 10_state.md R41). -/

namespace Sys2Proof

/-- Both lines of a channel are at most LINE_IN_MAX bytes long. -/
def ChannelName.wellFormed (c : ChannelName) : Bool :=
  decide (c.line1.length ≤ Config.lineInMax) && decide (c.line2.length ≤ Config.lineInMax)

/-- Every line of the table is at most LINE_IN_MAX bytes long. -/
def tableWellFormed (t : NameTable) : Bool :=
  t.toList.all ChannelName.wellFormed

/-- Well-formedness of an instruction as the host or the peer can present it. -/
def Instr.wellFormed : Instr → Bool
  | .nop _ _ => true
  | .ack _ _ => true
  | .resetUnit _ _ => true
  | .nak _ _ => true
  | .getChannelNames _ _ => true
  | .setChannelNames _ _ => true
  | .disconnect17 _ _ => true
  | .disconnect04 _ _ => true
  | .encodeNames t => tableWellFormed t
  | .decodeNames => true
  | .send _ _ => true
  | .receive _ => true
  | .sendReceive _ _ _ => true
  | .opReset => true
  | .opGetNames => true
  | .opSetNames t => tableWellFormed t

end Sys2Proof
end

