-- ==== Sys2Proof/Decode.lean ====
section
/-! DEFINITION. Byte order, the decoder of headers and of the host's operation port, and the encoder, written from
30_encoding.md R90 to R99 and R110, R111. -/

namespace Sys2Proof

/-! ## Integers and bytes (00_scope.md R12) -/

/-- `LE16(b0, b1) = b0 + 256·b1` (R12). -/
def le16 (b0 b1 : Byte) : U16 :=
  BitVec.ofNat 16 (b0.toNat + 256 * b1.toNat)

/-- `LE32(b0, b1, b2, b3) = b0 + 256·b1 + 65536·b2 + 16777216·b3` (R12). -/
def le32 (b0 b1 b2 b3 : Byte) : U32 :=
  BitVec.ofNat 32 (b0.toNat + 256 * b1.toNat + 65536 * b2.toNat + 16777216 * b3.toNat)

/-- `bytes16(v) = (v[7:0], v[15:8])` (R12). -/
def bytes16 (v : U16) : List Byte :=
  [v.extractLsb' 0 8, v.extractLsb' 8 8]

/-- `bytes32(v) = (v[7:0], v[15:8], v[23:16], v[31:24])` (R12). -/
def bytes32 (v : U32) : List Byte :=
  [v.extractLsb' 0 8, v.extractLsb' 8 8, v.extractLsb' 16 8, v.extractLsb' 24 8]

/-- The `n` bytes of a number, least significant first: how the stream carries a word (20_memory.md R60). -/
def leBytes : Nat → Nat → List Byte
  | 0, _ => []
  | n + 1, w => BitVec.ofNat 8 w :: leBytes n (w / 256)

/-- `MemRead(B + off, 1)`: byte `off` of a sequence (00_scope.md R14). An offset outside it gives 0; no rule uses one. -/
def byteAt (bs : List Byte) (off : Nat) : Byte :=
  bs.getD off 0

/-- `MemRead(B + off, 2)` (00_scope.md R14). -/
def memRead16 (bs : List Byte) (off : Nat) : U16 :=
  le16 (byteAt bs off) (byteAt bs (off + 1))

/-- `MemRead(B + off, 4)` (00_scope.md R14). -/
def memRead32 (bs : List Byte) (off : Nat) : U32 :=
  le32 (byteAt bs off) (byteAt bs (off + 1)) (byteAt bs (off + 2)) (byteAt bs (off + 3))

/-! ## What is decoded -/

/-- The host's operation port: the selector and the operand lanes, written together (30_encoding.md R110) [log 15]. -/
structure Port where
  op : BitVec 4
  cmd : U16
  body : BitVec 1
  exp : BitVec 1
  table : NameTable
deriving DecidableEq, Repr

/-- An instruction as it is presented to the block: the bytes at the head of the RX stream in wire order, or the port. -/
inductive Encoded where
  | header (bytes : List Byte)
  | port (p : Port)
deriving DecidableEq, Repr

/-- Why nothing was decoded, by name. -/
inductive DecodeError where
  /-- Fewer than 8 bytes: not a header (40_frame_codec.md R139). -/
  | shortHeader (count : Nat)
  /-- A 16-bit command outside the map of R97 (R99). -/
  | unassignedOpcode (command : U16)
  /-- Selector 0, 6, 7 or 11 to 15 (R111). -/
  | reservedSelector (selector : BitVec 4)
deriving DecidableEq, Repr

/-- What the decoder answers. -/
inductive Decoded where
  | instr (i : Instr)
  | rejected (why : DecodeError)
deriving DecidableEq, Repr

/-- A table of 64 channels whose lines are all empty. -/
def emptyTable : NameTable :=
  Vector.replicate Config.nch ⟨[], []⟩

/-- The code of a shape: 0 NONE, 1 RNT (30_encoding.md R96). -/
def Shape.code : Shape → BitVec 1
  | .none => 0#1
  | .rnt => 1#1

/-- The shape of a code (30_encoding.md R96). -/
def shapeOfCode (b : BitVec 1) : Shape :=
  if b = 0#1 then .none else .rnt

/-! ## The decoder -/

/-- The command map of 30_encoding.md R97 on the three fields of a header: the selection is by the whole 16-bit command.
Both candidate values of DISCONNECT are rows of the table [log 19]. -/
def decodeFields (command bodyLength : U16) (checksum : U32) : Decoded :=
  if command = Config.opNop then .instr (.nop bodyLength checksum)
  else if command = Config.opAck then .instr (.ack bodyLength checksum)
  else if command = Config.opResetUnit then .instr (.resetUnit bodyLength checksum)
  else if command = Config.opNak then .instr (.nak bodyLength checksum)
  else if command = Config.opGetChannelNames then .instr (.getChannelNames bodyLength checksum)
  else if command = Config.opSetChannelNames then .instr (.setChannelNames bodyLength checksum)
  else if command = Config.opDisconnect17 then .instr (.disconnect17 bodyLength checksum)
  else if command = Config.opDisconnect04 then .instr (.disconnect04 bodyLength checksum)
  else .rejected (.unassignedOpcode command)

/-- A header is the first 8 bytes; its fields are at offsets 0, 2 and 4 (30_encoding.md R90, R92, R95). -/
def decodeHeader (bs : List Byte) : Decoded :=
  if bs.length < Config.hdrSize then .rejected (.shortHeader bs.length)
  else decodeFields (memRead16 bs 0) (memRead16 bs 2) (memRead32 bs 4)

/-- The selector list of 30_encoding.md R110; a lane the operation has no operand for is not looked at. -/
def decodePort (p : Port) : Decoded :=
  match p.op.toNat with
  | 1 => .instr (.encodeNames p.table)
  | 2 => .instr .decodeNames
  | 3 => .instr (.send p.cmd (shapeOfCode p.body))
  | 4 => .instr (.receive (shapeOfCode p.exp))
  | 5 => .instr (.sendReceive p.cmd (shapeOfCode p.body) (shapeOfCode p.exp))
  | 8 => .instr .opReset
  | 9 => .instr .opGetNames
  | 10 => .instr (.opSetNames p.table)
  | _ => .rejected (.reservedSelector p.op)

/-- The decoder. -/
def decode : Encoded → Decoded
  | .header bs => decodeHeader bs
  | .port p => decodePort p

/-! ## The encoder -/

/-- The 8 bytes of a header (30_encoding.md R90, R92). -/
def headerBytes (command bodyLength : U16) (checksum : U32) : List Byte :=
  bytes16 command ++ bytes16 bodyLength ++ bytes32 checksum

/-- The port with a selector and every operand lane zero. -/
def barePort (op : BitVec 4) : Port :=
  { op := op, cmd := 0, body := 0, exp := 0, table := emptyTable }

/-- The encoder, from 30_encoding.md R97 and R110. -/
def encode : Instr → Encoded
  | .nop l c => .header (headerBytes 0x0000#16 l c)
  | .ack l c => .header (headerBytes 0x0006#16 l c)
  | .resetUnit l c => .header (headerBytes 0x000A#16 l c)
  | .nak l c => .header (headerBytes 0x0015#16 l c)
  | .getChannelNames l c => .header (headerBytes 0x1000#16 l c)
  | .setChannelNames l c => .header (headerBytes 0x1001#16 l c)
  | .disconnect17 l c => .header (headerBytes 0x0017#16 l c)
  | .disconnect04 l c => .header (headerBytes 0x0004#16 l c)
  | .encodeNames t => .port { barePort 1#4 with table := t }
  | .decodeNames => .port (barePort 2#4)
  | .send cmd body => .port { barePort 3#4 with cmd := cmd, body := body.code }
  | .receive exp => .port { barePort 4#4 with exp := exp.code }
  | .sendReceive cmd body exp =>
      .port { barePort 5#4 with cmd := cmd, body := body.code, exp := exp.code }
  | .opReset => .port (barePort 8#4)
  | .opGetNames => .port (barePort 9#4)
  | .opSetNames t => .port { barePort 10#4 with table := t }

/-! ## Words as spec/opcode_table.json numbers them -/

/-- What a table word presents: a 64-bit word is the header `W` of 30_encoding.md R90 with its first byte at the head of
the stream; a word of at most 8 bits is a selector on the port, every operand lane zero [log 15]. -/
def encodedOfTableWord (nbits w : Nat) : Option Encoded :=
  if nbits = 64 then some (.header (leBytes 8 w))
  else if nbits ≤ 8 ∧ w < 16 then some (.port (barePort (BitVec.ofNat 4 w)))
  else none

/-- The instruction the decoder reads from a table word. -/
def decodeTableWord (nbits w : Nat) : Option Instr :=
  match encodedOfTableWord nbits w with
  | none => none
  | some e =>
    match decode e with
    | .instr i => some i
    | .rejected _ => none

end Sys2Proof
end

