-- ==== Sys2Proof/Machine/State.lean ====
section
/-! DEFINITION. The state of one block instance with its environment (10_state.md R20 to R46), the inputs the outside world
delivers, the reasons a step can stop, and the state after reset. -/

namespace Sys2Proof.Machine

/-- `ST`, the block's program counter (10_state.md R23). The reserved values 12 to 15 are never entered and have no
constructor [log 16]. -/
inductive Phase where
  | idle
  | txBuild
  | txSend
  | rxHdr
  | rxValidate
  | rxBody
  | rxVerify
  | rxDecode
  | done
  | failed
  | nameEnc
  | nameDec
deriving DecidableEq, Repr

/-- `OP`: 0 or the selector of the operation in progress or last completed (10_state.md R22, 30_encoding.md R110). -/
inductive OpSel where
  | none
  | encodeNames
  | decodeNames
  | send
  | receive
  | sendReceive
  | opReset
  | opGetNames
  | opSetNames
deriving DecidableEq, Repr

/-- `SEQ_OP`: the device operation being sequenced, or none (10_state.md R29). -/
inductive SeqOp where
  | none
  | reset
  | getNames
  | setNames
deriving DecidableEq, Repr

/-- `SEQ_STEP`: 0 not sequencing, 1 the named action's exchange, 2 the trailing DISCONNECT exchange (10_state.md R29). -/
inductive SeqStep where
  | zero
  | first
  | second
deriving DecidableEq, Repr

/-- `ERR_KIND` (60_exceptions.md R260). -/
inductive ErrKind where
  | none
  | transport
  | protocolShape
  | integrity
  | deviceRejected
deriving DecidableEq, Repr

/-- `ERR_SUB`, by the sub-cause its code stands for (60_exceptions.md R260). -/
inductive ErrSub where
  | none
  | writeFail
  | readFail
  | timeout
  | sizeMismatch
  | unrecognized
deriving DecidableEq, Repr

/-- What the stream offers the engine at one of its turns, the environment's choice (20_memory.md R67, R68):
`ready` accepts a push, unless the stream is stalled, and delivers a pending byte, `fail` reports a failure, `blocked`
accepts no push yet. -/
inductive StreamChoice where
  | ready
  | fail
  | blocked
deriving DecidableEq, Repr

/-- One input from outside the engine, or one turn given to it (00_scope.md R9, R10) [log 4]. -/
inductive Input where
  /-- The host presents an operation on the port (42_command_response_engine.md R190). -/
  | host (p : Port)
  /-- The peer sends bytes (10_state.md R42). -/
  | peer (bytes : List Byte)
  /-- The environment clock sets the deadline-expired flag (60_exceptions.md R271). -/
  | expire
  /-- The host closes the stream (20_memory.md R71). -/
  | close
  /-- The transport stops accepting bytes, without failing (70_reset_and_hazards.md R320) [log 25]. -/
  | stall
  /-- The transport accepts bytes again [log 25]. -/
  | resume
  /-- The reset event (70_reset_and_hazards.md R300): `some bytes` binds the block to a freshly dialed stream on which the
  peer has already sent `bytes`; `none` re-uses the old stream (R301) [log 10]. -/
  | reset (fresh : Option (List Byte))
  /-- The engine's turn, with the stream's choice for it. -/
  | engine (choice : StreamChoice)
deriving DecidableEq, Repr

/-- Why the machine stops. Neither is raised in a state a run reaches; both are safe [log 14]. -/
inductive Fault where
  /-- Raised by TX_SEND, RX_BODY and RX_VERIFY when a counter or length points outside its buffer: an offset the spec says
  does not exist (20_memory.md R61). Safe: no run reaches it. -/
  | bufferRange
  /-- Raised by NAME_ENC, NAME_DEC and the sequencer when no rule gives the next phase (41_channel_name_codec.md R172,
  43_device_operations.md R241). Safe: no run reaches it. -/
  | noRule
deriving DecidableEq, Repr

/-- Why an instruction has no meaning. -/
inductive Refusal where
  /-- Raised by exec's arm of an instruction that has no meaning yet; no arm raises it. Safe. -/
  | notModelled (mnemonic : String)
deriving DecidableEq, Repr

/-- The whole state: the registers of 10_state.md R21, the two hidden buffers, the streams and their condition (R42), and
two fields of the model's own. -/
structure State where
  /-- Register 0, OP (R22). -/
  op : OpSel
  /-- Register 1, ARG_CMD (R22). -/
  argCmd : U16
  /-- Register 2, ARG_BODY (R22). -/
  argBody : Shape
  /-- Register 3, ARG_EXP (R22). -/
  argExp : Shape
  /-- Register 4, ST (R23). -/
  st : Phase
  /-- Register 5, SEQ_OP (R29). -/
  seqOp : SeqOp
  /-- Register 6, SEQ_STEP (R29). -/
  seqStep : SeqStep
  /-- Register 7, TXLEN (R25). -/
  txlen : BitVec 11
  /-- Register 8, TXCNT (R25). -/
  txcnt : BitVec 11
  /-- Register 9, RXCNT (R26). -/
  rxcnt : U16
  /-- Register 10, HDR_CMD (R27). -/
  hdrCmd : U16
  /-- Register 11, HDR_LEN (R27). -/
  hdrLen : U16
  /-- Register 12, HDR_CSUM (R27). -/
  hdrCsum : U32
  /-- Register 13, SUM (R28). -/
  sum : U32
  /-- STATUS bit 3, RNT_VALID (R31). -/
  rntValid : Bool
  /-- STATUS bit 4, LNT_VALID (R31). -/
  lntValid : Bool
  /-- STATUS bit 5, NAME_UNTERMINATED (R32). -/
  nameUnterminated : Bool
  /-- STATUS bit 6, CONN_UNRELIABLE (R33). -/
  connUnreliable : Bool
  /-- STATUS bit 7, OP_REFUSED (R34). -/
  opRefused : Bool
  /-- STATUS bit 8, TMR_ARMED (R35). -/
  tmrArmed : Bool
  /-- STATUS bit 9, TMR_EXPIRED (R35). -/
  tmrExpired : Bool
  /-- Register 15, ERR_KIND (R36). -/
  errKind : ErrKind
  /-- Register 16, ERR_SUB (R36). -/
  errSub : ErrSub
  /-- Register 17, ERR_EXPECTED (R36). -/
  errExpected : U16
  /-- Register 18, ERR_ACTUAL (R36). -/
  errActual : U16
  /-- Register 19, ERR_OPCODE (R36). -/
  errOpcode : U16
  /-- Register 20, ERR_CSUM_EXP (R36). -/
  errCsumExp : U32
  /-- Register 21, ERR_CSUM_GOT (R36). -/
  errCsumGot : U32
  /-- Register 22, CFG_DISCONNECT (R43). -/
  cfgDisconnect : DisconnectOpcode
  /-- Window 23, TXBUF (R37). -/
  txbuf : Buf Config.txbufSize
  /-- RXHDR, not host-visible (R38). -/
  rxhdr : Buf Config.hdrSize
  /-- RXBODY, not host-visible (R39). -/
  rxbody : Buf Config.bodyMax
  /-- Window 24, RNT (R40). -/
  rnt : Buf Config.rntSize
  /-- Window 25, LNT (R41). -/
  lnt : NameTable
  /-- TXS, the bytes pushed so far in push order (R42). -/
  txs : List Byte
  /-- RXS, the bytes the peer has sent and the block has not taken (R42). -/
  rxs : List Byte
  /-- The stream's condition: the host has closed it (R42, R71). -/
  closed : Bool
  /-- The stream's condition: the transport accepts no push until it resumes (R42, 20_memory.md R70) [log 25]. -/
  txStalled : Bool
  /-- The model's own: what the outside world does next, oldest first [log 4]. -/
  inputs : List Input
  /-- The model's own: how many free values have been drawn [log 18]. -/
  freeCtr : Nat
deriving DecidableEq, Repr

/-- The state after reset (10_state.md R46, 70_reset_and_hazards.md R300). The registers and buffers that R46 leaves
unspecified hold the values of [log 1] and [log 2]; the streams those of [log 22]. -/
def State.reset : State where
  op := .none
  argCmd := 0
  argBody := .none
  argExp := .none
  st := .idle
  seqOp := .none
  seqStep := .zero
  txlen := 0
  txcnt := 0
  rxcnt := 0
  hdrCmd := 0
  hdrLen := 0
  hdrCsum := 0
  sum := 0
  rntValid := false
  lntValid := false
  nameUnterminated := false
  connUnreliable := false
  opRefused := false
  tmrArmed := false
  tmrExpired := false
  errKind := .none
  errSub := .none
  errExpected := 0
  errActual := 0
  errOpcode := 0
  errCsumExp := 0
  errCsumGot := 0
  cfgDisconnect := Config.disconnectOpcode
  txbuf := Vector.replicate Config.txbufSize 0
  rxhdr := Vector.replicate Config.hdrSize 0
  rxbody := Vector.replicate Config.bodyMax 0
  rnt := Vector.replicate Config.rntSize 0
  lnt := emptyTable
  txs := []
  rxs := []
  closed := false
  txStalled := false
  inputs := []
  freeCtr := 0

end Sys2Proof.Machine
end

