-- ==== Sys2Proof/Machine/Operands.lean ====
section
/-! DEFINITION. Operand forms and codes: the sizes of the body shapes, the numeric codes of the enumerated registers, and
buffers made from byte sequences (30_encoding.md R96, R110; 10_state.md R23, R29, R36). -/

namespace Sys2Proof

/-- The serialized size of a shape in bytes (30_encoding.md R96). -/
def Shape.size : Shape → U16
  | .none => 0#16
  | .rnt => BitVec.ofNat 16 Config.rntSize

end Sys2Proof

namespace Sys2Proof.Machine

/-- The number of a phase (10_state.md R23). -/
def Phase.code : Phase → BitVec 4
  | .idle => 0#4
  | .txBuild => 1#4
  | .txSend => 2#4
  | .rxHdr => 3#4
  | .rxValidate => 4#4
  | .rxBody => 5#4
  | .rxVerify => 6#4
  | .rxDecode => 7#4
  | .done => 8#4
  | .failed => 9#4
  | .nameEnc => 10#4
  | .nameDec => 11#4

/-- The rest states: only the host can move the block on (10_state.md R24). -/
def Phase.rest : Phase → Bool
  | .idle | .done | .failed => true
  | .txBuild | .txSend | .rxHdr | .rxValidate | .rxBody | .rxVerify | .rxDecode | .nameEnc | .nameDec => false

/-- The selector of an operation (30_encoding.md R110). -/
def OpSel.code : OpSel → BitVec 4
  | .none => 0#4
  | .encodeNames => 1#4
  | .decodeNames => 2#4
  | .send => 3#4
  | .receive => 4#4
  | .sendReceive => 5#4
  | .opReset => 8#4
  | .opGetNames => 9#4
  | .opSetNames => 10#4

/-- The number in SEQ_OP (10_state.md R29). -/
def SeqOp.code : SeqOp → BitVec 4
  | .none => 0#4
  | .reset => 8#4
  | .getNames => 9#4
  | .setNames => 10#4

/-- The number in SEQ_STEP (10_state.md R29). -/
def SeqStep.code : SeqStep → BitVec 2
  | .zero => 0#2
  | .first => 1#2
  | .second => 2#2

/-- The number in ERR_KIND (60_exceptions.md R260). -/
def ErrKind.code : ErrKind → BitVec 3
  | .none => 0#3
  | .transport => 1#3
  | .protocolShape => 2#3
  | .integrity => 3#3
  | .deviceRejected => 4#3

/-- The number in ERR_SUB (60_exceptions.md R260). -/
def ErrSub.code : ErrSub → BitVec 2
  | .none => 0#2
  | .writeFail => 1#2
  | .readFail => 2#2
  | .timeout => 3#2
  | .sizeMismatch => 1#2
  | .unrecognized => 2#2

/-- What ISSUE writes into SEQ_OP: the selector of a device operation, else 0 (42_command_response_engine.md R190). -/
def OpSel.seqOp : OpSel → SeqOp
  | .opReset => .reset
  | .opGetNames => .getNames
  | .opSetNames => .setNames
  | .none | .encodeNames | .decodeNames | .send | .receive | .sendReceive => .none

/-- What ISSUE writes into SEQ_STEP: 1 for a device operation, else 0 (42_command_response_engine.md R190). -/
def OpSel.seqStep : OpSel → SeqStep
  | .opReset | .opGetNames | .opSetNames => .first
  | .none | .encodeNames | .decodeNames | .send | .receive | .sendReceive => .zero

theorem length_take_pad (n : Nat) (bs : List Byte) : ((bs ++ List.replicate n 0).take n).length = n := by
  simp

/-- The buffer that holds the first `n` bytes of a sequence. Every use gives it a sequence of at least `n` bytes; a shorter
one is filled up with zeros. -/
def bufOf (n : Nat) (bs : List Byte) : Buf n :=
  ⟨⟨(bs ++ List.replicate n 0).take n⟩, length_take_pad n bs⟩

/-- The bytes of a buffer in offset order. -/
def bytesOf {n : Nat} (b : Buf n) : List Byte :=
  b.toList

end Sys2Proof.Machine
end

