-- ==== Sys2Proof/Machine/Flags.lean ====
section
/-! DEFINITION. The STATUS register: its three functions of ST and its ten bits (10_state.md R30 to R35). -/

namespace Sys2Proof.Machine

/-- STATUS bit 0, BUSY: ST is a busy state (R30). -/
def State.busy (s : State) : Bool := !s.st.rest

/-- STATUS bit 1, DONE (R30). -/
def State.doneFlag (s : State) : Bool := s.st == .done

/-- STATUS bit 2, FAIL (R30). -/
def State.failFlag (s : State) : Bool := s.st == .failed

/-- STATUS as the host reads it, bit 0 BUSY to bit 9 TMR_EXPIRED (R30 to R35). -/
def State.status (s : State) : BitVec 10 :=
  BitVec.ofBool s.tmrExpired ++ BitVec.ofBool s.tmrArmed ++ BitVec.ofBool s.opRefused ++
    BitVec.ofBool s.connUnreliable ++ BitVec.ofBool s.nameUnterminated ++ BitVec.ofBool s.lntValid ++
    BitVec.ofBool s.rntValid ++ BitVec.ofBool s.failFlag ++ BitVec.ofBool s.doneFlag ++ BitVec.ofBool s.busy

end Sys2Proof.Machine
end

