-- ==== Sys2Proof/Machine/FrameCodec.lean ====
section
/-! DEFINITION. The Frame Codec and the checksum engine: pure functions (40_frame_codec.md R130 to R144). -/

namespace Sys2Proof.Machine

/-- The exact sum of the bytes, each an unsigned value 0..255 (R130, R131). -/
def byteTotal : List Byte → Nat
  | [] => 0
  | b :: bs => b.toNat + byteTotal bs

/-- SUM8: the byte sum modulo 2^32 (R130). -/
def sum8 (bs : List Byte) : U32 :=
  BitVec.ofNat 32 (byteTotal bs)

/-- `neg32(a) = (2^32 − a) mod 2^32` (00_scope.md R13). -/
def neg32 (a : U32) : U32 :=
  BitVec.ofNat 32 (2 ^ 32 - a.toNat)

/-- CHECKSUM (R132). -/
def checksum (sum : U32) : U32 :=
  neg32 sum

/-- `MemWrite(buf + off, 4, v)` on a byte sequence (00_scope.md R14). -/
def memWrite32 (buf : List Byte) (off : Nat) (v : U32) : List Byte :=
  buf.take off ++ bytes32 v ++ buf.drop (off + 4)

/-- CONSTRUCT; an absent body is the empty one (R134). -/
def construct (cmd : U16) (body : List Byte) : List Byte :=
  let buf := bytes16 cmd ++ bytes16 (BitVec.ofNat 16 body.length) ++ [0, 0, 0, 0] ++ body
  memWrite32 buf 4 (neg32 (sum8 buf))

/-- The three fields of a header (R138). -/
structure Header where
  command : U16
  bodyLength : U16
  checksum : U32
deriving DecidableEq, Repr

/-- PARSE_HEADER: field extraction and nothing else (R138). -/
def parseHeader (h : List Byte) : Header :=
  { command := memRead16 h 0, bodyLength := memRead16 h 2, checksum := memRead32 h 4 }

/-- PARSE, defined when the sequence is as long as its own header declares (R139). -/
def parse (f : List Byte) : Option (Header × List Byte) :=
  let h := parseHeader (f.take Config.hdrSize)
  if f.length < Config.hdrSize + h.bodyLength.toNat then none
  else some (h, (f.drop Config.hdrSize).take h.bodyLength.toNat)

/-- What VERIFY returns (R141). -/
structure Verdict where
  ok : Bool
  expected : U32
  got : U32
  sum : U32
deriving DecidableEq, Repr

/-- VERIFY (R141): the four checksum bytes are not summed; the field is added as one integer. -/
def verify (h body : List Byte) : Verdict :=
  let s := sum8 (h.take 4 ++ body)
  let got := memRead32 h 4
  { ok := decide (s + got = 0), expected := neg32 s, got := got, sum := s }

end Sys2Proof.Machine
end

