-- ==== Sys2Proof/Machine/Ops.lean ====
section
/-! DEFINITION. The shared operations: pushes and takes, taking a failure (60_exceptions.md R266) and leaving it (R268),
refusing and accepting an operation (R275, 42_command_response_engine.md R190), beginning and ending an exchange. -/

namespace Sys2Proof.Machine

/-! ## The streams (20_memory.md R67 to R71) -/

/-- The outcomes of a push (R67). -/
inductive PushOutcome where
  | accepted
  | writeFail
  | notYet
deriving DecidableEq, Repr

/-- TxPush: what the environment answers; a closed stream fails every push, and a stalled one accepts none (R67, R70,
R71) [log 25]. -/
def State.pushOutcome (s : State) (c : StreamChoice) : PushOutcome :=
  if s.closed then .writeFail
  else
    match c with
    | .ready => if s.txStalled then .notYet else .accepted
    | .fail => .writeFail
    | .blocked => .notYet

/-- TxPush, accepted: the byte is appended to TXS (R67). -/
def State.pushByte (s : State) (b : Byte) : State :=
  { s with txs := s.txs ++ [b] }

/-- The outcomes of a take (R68). -/
inductive TakeOutcome where
  | timeout
  | readFail
  | byte (b : Byte)
  | wait
deriving DecidableEq, Repr

/-- RxTake: an expired deadline wins; then a closed stream or a reported failure; then the head of RXS; else the engine
waits (R68, R69, R71, 60_exceptions.md R269) [log 12] [log 13]. -/
def State.takeOutcome (s : State) (c : StreamChoice) : TakeOutcome :=
  if s.tmrExpired then .timeout
  else if s.closed then .readFail
  else if c = .fail then .readFail
  else
    match s.rxs with
    | [] => .wait
    | b :: _ => .byte b

/-- RxTake, a byte taken: the head of RXS is gone (R68, R64). -/
def State.dropHead (s : State) : State :=
  { s with rxs := s.rxs.tail }

/-! ## Failures (60_exceptions.md R260 to R268) -/

/-- The failures, each with the context it records (R265). -/
inductive Failure where
  | writeFail
  | readFail
  | timeout
  | sizeMismatch (expected actual : U16)
  | unrecognized (opcode : U16)
  | integrity (expected got : U32)
  | deviceRejected (opcode : U16)
deriving DecidableEq, Repr

/-- ERR_KIND of a failure (R260). -/
def Failure.kind : Failure → ErrKind
  | .writeFail | .readFail | .timeout => .transport
  | .sizeMismatch _ _ | .unrecognized _ => .protocolShape
  | .integrity _ _ => .integrity
  | .deviceRejected _ => .deviceRejected

/-- ERR_SUB of a failure (R260). -/
def Failure.sub : Failure → ErrSub
  | .writeFail => .writeFail
  | .readFail => .readFail
  | .timeout => .timeout
  | .sizeMismatch _ _ => .sizeMismatch
  | .unrecognized _ => .unrecognized
  | .integrity _ _ => .none
  | .deviceRejected _ => .none

/-- The context registers a failure writes (R265). The others are left as they were: R36 and R266 say so, while
93_implementation_defined.md I11 treats them as any value; to follow the rules there is the model's choice, DESIGN CHOICE
[log 26]. -/
def State.writeContext (s : State) : Failure → State
  | .writeFail => s
  | .readFail => s
  | .timeout => s
  | .sizeMismatch e a => { s with errExpected := e, errActual := a }
  | .unrecognized o => { s with errOpcode := o }
  | .integrity e g => { s with errCsumExp := e, errCsumGot := g }
  | .deviceRejected o => { s with errOpcode := o }

/-- After a failed RECEIVE the contents of RXBODY are unspecified (10_state.md R39) [log 8]. -/
def State.loseRxbody (s : State) : State :=
  { s with rxbody := Config.freeRxbody s.freeCtr, freeCtr := s.freeCtr + 1 }

/-- A failure of the receive part; a write failure ends an exchange before it (R265). -/
def Failure.inReceive : Failure → Bool
  | .writeFail => false
  | .readFail | .timeout | .sizeMismatch _ _ | .unrecognized _ | .integrity _ _ | .deviceRejected _ => true

/-- `raise Fail(kind, sub, info)`, the entry to FAILED (R266): no vector, no saved register, no mode. -/
def State.raise (s : State) (f : Failure) : State :=
  let s := s.writeContext f
  let s := if f.inReceive then s.loseRxbody else s
  { s with
    errKind := f.kind
    errSub := f.sub
    connUnreliable := s.connUnreliable || f.kind == .transport
    tmrArmed := false
    tmrExpired := false
    st := .failed }

/-! ## Issuing an operation (42_command_response_engine.md R190, 60_exceptions.md R275) -/

/-- Why an operation is refused; the reason is not recorded (R275). -/
inductive RefuseReason where
  | busy
  | reservedOp
  | rntUnwritten
deriving DecidableEq, Repr

/-- `refuse(reason)` does exactly `OP_REFUSED <- 1` (R275) [log 20]. -/
def State.refuse (s : State) (_why : RefuseReason) : State :=
  { s with opRefused := true }

/-- The checks of ISSUE on a selector that is not reserved, in the rule's order (R190). -/
def State.issueCheck (s : State) (readsRnt : Bool) : Option RefuseReason :=
  if s.st.rest = false then some .busy
  else if readsRnt && !s.rntValid then some .rntUnwritten
  else none

/-- What ISSUE writes when it accepts (R190); clearing ERR_KIND and ERR_SUB is the only way out of FAILED there is (R268). -/
def State.accept (s : State) (op : OpSel) : State :=
  { s with op := op, errKind := .none, errSub := .none, seqOp := op.seqOp, seqStep := op.seqStep }

/-- ISSUE: refuse, or accept and take the first step of the operation's own rule (R190). -/
def State.issue (s : State) (op : OpSel) (readsRnt : Bool) (start : State → State) : State :=
  match s.issueCheck readsRnt with
  | some why => s.refuse why
  | none => start (s.accept op)

/-! ## The parts of an exchange -/

/-- The operand latches of a request and its expected answer (10_state.md R22). -/
def State.latch (s : State) (cmd : U16) (body exp : Shape) : State :=
  { s with argCmd := cmd, argBody := body, argExp := exp }

/-- Nothing is promised about RXS once CONN_UNRELIABLE is set: what a receive part finds there is any byte sequence
(70_reset_and_hazards.md R316) [log 9]. -/
def State.unreliableStream (s : State) : State :=
  if s.connUnreliable then { s with rxs := Config.freeStream s.freeCtr, freeCtr := s.freeCtr + 1 } else s

/-- Beginning the receive part: the deadline is armed here and nowhere else (42_command_response_engine.md R199). -/
def State.beginReceive (s : State) : State :=
  let s := s.unreliableStream
  { s with tmrArmed := true, tmrExpired := false, rxcnt := 0, st := .rxHdr }

/-- The deadline is disarmed at the end of a successful exchange (42_command_response_engine.md R212). -/
def State.disarm (s : State) : State :=
  { s with tmrArmed := false, tmrExpired := false }

end Sys2Proof.Machine
end

