-- ==== Sys2Proof/Machine/HostView.lean ====
section
/-! DEFINITION. What the host reads: the numbered registers and windows (10_state.md R21), and what an observer of the block
can see (20_memory.md R72). -/

namespace Sys2Proof.Machine

/-- What a host read returns: a number of a width, the bytes of a window, or the strings of LNT. -/
inductive RegView where
  | bits (width value : Nat)
  | bytes (b : List Byte)
  | strings (t : NameTable)
deriving DecidableEq, Repr

/-- A host read of register `n`: none for a register the host cannot read (OP and the ARG latches are written only) and
for a number the table does not have (10_state.md R21). -/
def State.hostRead (s : State) (n : Nat) : Option RegView :=
  match n with
  | 4 => some (.bits 4 s.st.code.toNat)
  | 5 => some (.bits 4 s.seqOp.code.toNat)
  | 6 => some (.bits 2 s.seqStep.code.toNat)
  | 7 => some (.bits 11 s.txlen.toNat)
  | 8 => some (.bits 11 s.txcnt.toNat)
  | 9 => some (.bits 16 s.rxcnt.toNat)
  | 10 => some (.bits 16 s.hdrCmd.toNat)
  | 11 => some (.bits 16 s.hdrLen.toNat)
  | 12 => some (.bits 32 s.hdrCsum.toNat)
  | 13 => some (.bits 32 s.sum.toNat)
  | 14 => some (.bits 10 s.status.toNat)
  | 15 => some (.bits 3 s.errKind.code.toNat)
  | 16 => some (.bits 2 s.errSub.code.toNat)
  | 17 => some (.bits 16 s.errExpected.toNat)
  | 18 => some (.bits 16 s.errActual.toNat)
  | 19 => some (.bits 16 s.errOpcode.toNat)
  | 20 => some (.bits 32 s.errCsumExp.toNat)
  | 21 => some (.bits 32 s.errCsumGot.toNat)
  | 22 => some (.bits 16 s.cfgDisconnect.code.toNat)
  | 23 => some (.bytes (bytesOf s.txbuf))
  | 24 => some (.bytes (bytesOf s.rnt))
  | 25 => some (.strings s.lnt)
  | _ => none

/-- What an observer sees of the block at a moment (20_memory.md R72): the bytes pushed, the bytes not yet taken, the rest
state with the error registers, the tables that are valid, the header registers, the sticky flags. -/
structure Observation where
  txs : List Byte
  rxs : List Byte
  rest : Option (Phase × ErrKind × ErrSub)
  errContext : List Nat
  rnt : Option (List Byte)
  lnt : Option NameTable
  header : U16 × U16 × U32
  connUnreliable : Bool
  opRefused : Bool
deriving DecidableEq, Repr

/-- The observation of a state (20_memory.md R72). -/
def State.observe (s : State) : Observation where
  txs := s.txs
  rxs := s.rxs
  rest := if s.st.rest then some (s.st, s.errKind, s.errSub) else none
  errContext := [s.errExpected.toNat, s.errActual.toNat, s.errOpcode.toNat, s.errCsumExp.toNat, s.errCsumGot.toNat]
  rnt := if s.rntValid then some (bytesOf s.rnt) else none
  lnt := if s.lntValid then some s.lnt else none
  header := (s.hdrCmd, s.hdrLen, s.hdrCsum)
  connUnreliable := s.connUnreliable
  opRefused := s.opRefused

end Sys2Proof.Machine
end

