-- ==== Sys2Proof/Machine/NameOps.lean ====
section
/-! DEFINITION. The host operations of the Channel Name Codec: acceptance and first step (41_channel_name_codec.md R170, R171).
Their phases NAME_ENC and NAME_DEC stand in Phases.lean. -/

namespace Sys2Proof.Machine

/-- Loading the host's table: `LNT <- T; LNT_VALID <- 1` (R170, 43_device_operations.md R246) [log 21]. -/
def State.loadTable (s : State) (t : NameTable) : State :=
  { s with lnt := t, lntValid := true }

/-- ENCODE_NAMES(T) (R170). -/
def execEncodeNames (t : NameTable) (s : State) : Host.Outcome State Fault Refusal :=
  .next (s.issue .encodeNames false fun s => { s.loadTable t with st := .nameEnc })

/-- DECODE_NAMES; refused while RNT_VALID = 0 (R171). -/
def execDecodeNames (s : State) : Host.Outcome State Fault Refusal :=
  .next (s.issue .decodeNames true fun s => { s with st := .nameDec })

end Sys2Proof.Machine
end

