-- ==== Sys2Proof/Machine/DeviceOps.lean ====
section
/-! DEFINITION. The three device operations: acceptance and first step, and the sequencer that composes their exchanges
(43_device_operations.md R240 to R248). -/

namespace Sys2Proof.Machine

/-- OP_RESET (R242). -/
def execOpReset (s : State) : Host.Outcome State Fault Refusal :=
  .next (s.issue .opReset false fun s => { s.latch Config.opResetUnit .none .none with st := .txBuild })

/-- OP_GET_NAMES (R244). -/
def execOpGetNames (s : State) : Host.Outcome State Fault Refusal :=
  .next (s.issue .opGetNames false fun s =>
    { s.latch Config.opGetChannelNames .none .rnt with lntValid := false, st := .txBuild })

/-- OP_SET_NAMES(T) (R246). -/
def execOpSetNames (t : NameTable) (s : State) : Host.Outcome State Fault Refusal :=
  .next (s.issue .opSetNames false fun s =>
    { (s.loadTable t).latch Config.opSetChannelNames .rnt .none with st := .nameEnc })

/-- SEQ_NEXT (R241). `decoded` says where it was entered from: NAME_DEC (the name decode has run) or RX_DECODE (it has
not). A SEQ_STEP of 0 has no rule here; no run reaches it [log 14]. -/
def seqNext (decoded : Bool) (s : State) : Host.Outcome State Fault Refusal :=
  match s.seqStep with
  | .zero => .fault .noRule
  | .first =>
    if s.seqOp = .getNames ∧ decoded = false then .next { s with st := .nameDec }
    else .next { s.latch s.cfgDisconnect.code .none .none with seqStep := .second, st := .txBuild }
  | .second =>
    .next { s with lntValid := s.lntValid || s.seqOp == .getNames, st := .done }

end Sys2Proof.Machine
end

