-- ==== Sys2Proof/Machine/EngineOps.lean ====
section
/-! DEFINITION. The host operations of the engine: acceptance and first step (42_command_response_engine.md R192, R198,
R215). What follows is done by the phases of Phases.lean. -/

namespace Sys2Proof.Machine

/-- SEND(cmd, body); refused when the body is RNT and RNT_VALID = 0 (R192, R190). -/
def execSend (cmd : U16) (body : Shape) (s : State) : Host.Outcome State Fault Refusal :=
  .next (s.issue .send (body == .rnt) fun s => { s with argCmd := cmd, argBody := body, st := .txBuild })

/-- RECEIVE(exp) (R198). -/
def execReceive (exp : Shape) (s : State) : Host.Outcome State Fault Refusal :=
  .next (s.issue .receive false fun s => State.beginReceive { s with argExp := exp })

/-- SEND_RECEIVE(cmd, body, exp); refused when the body is RNT and RNT_VALID = 0 (R215, R190). -/
def execSendReceive (cmd : U16) (body exp : Shape) (s : State) : Host.Outcome State Fault Refusal :=
  .next (s.issue .sendReceive (body == .rnt) fun s => { s.latch cmd body exp with st := .txBuild })

end Sys2Proof.Machine
end

