-- ==== Sys2Proof/Machine/NameCodec.lean ====
section
/-! DEFINITION. The Channel Name Codec: pure functions between the logical table and the wire table
(30_encoding.md R100 to R103, 41_channel_name_codec.md R160 to R169). -/

namespace Sys2Proof.Machine

/-- ENCODE_LINE: at most the first 8 bytes, then zeros up to the 12 bytes of a record (R160). -/
def encodeLine (s : Line) : List Byte :=
  s.take Config.lineContent ++ List.replicate (Config.recSize - min s.length Config.lineContent) 0

/-- The records of one channel, line1 before line2 (30_encoding.md R101). -/
def encodeChannel (c : ChannelName) : List Byte :=
  encodeLine c.line1 ++ encodeLine c.line2

/-- ENCODE_TABLE: the 128 records in channel-major order (R163, 30_encoding.md R101). -/
def encodeTable (t : NameTable) : Buf Config.rntSize :=
  bufOf Config.rntSize (t.toList.flatMap encodeChannel)

/-- DECODE_LINE's string: the bytes before the first zero among the 8 content bytes (R164, R166). -/
def decodeLine (r : List Byte) : Line :=
  (r.take Config.lineContent).takeWhile (fun b => b != 0#8)

/-- DECODE_LINE's flag: no zero among the 9 bytes of the field (R164, R166). -/
def lineUnterminated (r : List Byte) : Bool :=
  decide ((decodeLine r).length = Config.lineContent) && byteAt r Config.lineContent != 0#8

/-- The offset of a record, `rec(ch, ln) = 24·ch + 12·ln` (30_encoding.md R101). -/
def recOffset (ch ln : Nat) : Nat :=
  24 * ch + 12 * ln

/-- The 12 bytes of a record. -/
def recordAt (r : List Byte) (ch ln : Nat) : List Byte :=
  (r.drop (recOffset ch ln)).take Config.recSize

/-- The two lines of one channel, decoded (R167). -/
def decodeChannel (r : List Byte) (ch : Nat) : ChannelName :=
  { line1 := decodeLine (recordAt r ch 0), line2 := decodeLine (recordAt r ch 1) }

theorem length_decodeChannels (r : List Byte) :
    ((List.range Config.nch).map (decodeChannel r)).length = Config.nch := by
  simp

/-- DECODE_TABLE's table (R167). -/
def decodeTable (r : Buf Config.rntSize) : NameTable :=
  ⟨⟨(List.range Config.nch).map (decodeChannel (bytesOf r))⟩, length_decodeChannels (bytesOf r)⟩

/-- DECODE_TABLE's flag: the OR of the 128 line flags (R167). -/
def tableUnterminated (r : Buf Config.rntSize) : Bool :=
  (List.range Config.nch).any fun ch =>
    lineUnterminated (recordAt (bytesOf r) ch 0) || lineUnterminated (recordAt (bytesOf r) ch 1)

end Sys2Proof.Machine
end

