-- ==== Sys2Proof/Machine/WireCommands.lean ====
section
/-! DEFINITION. The wire commands, as RX_VALIDATE treats a received header (42_command_response_engine.md R203 to R206, R223
to R229) [log 6]. Neither the length nor the checksum plays a part in choosing the case (R203). -/

namespace Sys2Proof.Machine

/-- NOP received: "any other command value" (R223, R206). -/
def execNop (_bodyLength : U16) (_checksum : U32) (s : State) : Host.Outcome State Fault Refusal :=
  .next (s.raise (.unrecognized Config.opNop))

/-- ACK received: the size check; a body is read only when its length is the expected one (R224, R204). -/
def execAck (bodyLength : U16) (_checksum : U32) (s : State) : Host.Outcome State Fault Refusal :=
  if bodyLength = s.argExp.size then .next { s with rxcnt := 0, st := .rxBody }
  else .next (s.raise (.sizeMismatch s.argExp.size bodyLength))

/-- RESET_UNIT received: "any other command value" (R225, R206). -/
def execResetUnit (_bodyLength : U16) (_checksum : U32) (s : State) : Host.Outcome State Fault Refusal :=
  .next (s.raise (.unrecognized Config.opResetUnit))

/-- NAK received: device-rejected, whatever its length and checksum (R226, R205). -/
def execNak (_bodyLength : U16) (_checksum : U32) (s : State) : Host.Outcome State Fault Refusal :=
  .next (s.raise (.deviceRejected Config.opNak))

/-- GET_CHANNEL_NAMES received: "any other command value" (R227, R206). -/
def execGetChannelNames (_bodyLength : U16) (_checksum : U32) (s : State) : Host.Outcome State Fault Refusal :=
  .next (s.raise (.unrecognized Config.opGetChannelNames))

/-- SET_CHANNEL_NAMES received: "any other command value" (R228, R206). -/
def execSetChannelNames (_bodyLength : U16) (_checksum : U32) (s : State) : Host.Outcome State Fault Refusal :=
  .next (s.raise (.unrecognized Config.opSetChannelNames))

/-- DISCONNECT as 0x0017 received: either value fails as unrecognized (R229, R206). -/
def execDisconnect17 (_bodyLength : U16) (_checksum : U32) (s : State) : Host.Outcome State Fault Refusal :=
  .next (s.raise (.unrecognized Config.opDisconnect17))

/-- DISCONNECT as 0x0004 received: either value fails as unrecognized (R229, R206). -/
def execDisconnect04 (_bodyLength : U16) (_checksum : U32) (s : State) : Host.Outcome State Fault Refusal :=
  .next (s.raise (.unrecognized Config.opDisconnect04))

end Sys2Proof.Machine
end

