-- ==== Sys2Proof/Machine/Phases.lean ====
section
/-! DEFINITION. The phases of the engine, one definition each, but for RX_VALIDATE, which dispatches on the received command
and stands in Engine.lean (42_command_response_engine.md R196 to R212, 40_frame_codec.md R135, 41_channel_name_codec.md R172). -/

namespace Sys2Proof.Machine

/-- The request body that ARG_BODY selects (40_frame_codec.md R135). -/
def State.requestBody (s : State) : List Byte :=
  match s.argBody with
  | .none => []
  | .rnt => bytesOf s.rnt

/-- TXBUF with a frame at its start; the bytes at and beyond TXLEN are unspecified (10_state.md R37) [log 7]. -/
def State.putFrame (s : State) (frame : List Byte) : State :=
  { s with
    txbuf := bufOf Config.txbufSize (frame ++ (bytesOf (Config.freeTxbuf s.freeCtr)).drop frame.length)
    freeCtr := s.freeCtr + 1 }

/-- TX_BUILD (40_frame_codec.md R135). -/
def phaseTxBuild (s : State) : Host.Outcome State Fault Refusal :=
  let frame := construct s.argCmd s.requestBody
  .next { s.putFrame frame with
    txlen := BitVec.ofNat 11 frame.length
    txcnt := 0
    sum := sum8 (frame.take 4 ++ frame.drop 8)
    st := .txSend }

/-- TX_SEND (R196). -/
def phaseTxSend (c : StreamChoice) (s : State) : Host.Outcome State Fault Refusal :=
  if s.txcnt < s.txlen then
    match (bytesOf s.txbuf)[s.txcnt.toNat]? with
    | none => .fault .bufferRange
    | some b =>
      match s.pushOutcome c with
      | .accepted => .next { s.pushByte b with txcnt := s.txcnt + 1 }
      | .writeFail => .next (s.raise .writeFail)
      | .notYet => .next s
  else if s.op = .send then .next { s with st := .done }
  else .next s.beginReceive

/-- RX_HDR: a header byte, or the header is complete and parsed (R201, R202). -/
def phaseRxHdr (c : StreamChoice) (s : State) : Host.Outcome State Fault Refusal :=
  if s.rxcnt.toNat < Config.hdrSize then
    match s.takeOutcome c with
    | .timeout => .next (s.raise .timeout)
    | .readFail => .next (s.raise .readFail)
    | .byte b => .next { s.dropHead with rxhdr := s.rxhdr.setIfInBounds s.rxcnt.toNat b, rxcnt := s.rxcnt + 1 }
    | .wait => .next s
  else
    let h := parseHeader (bytesOf s.rxhdr)
    .next { s with hdrCmd := h.command, hdrLen := h.bodyLength, hdrCsum := h.checksum, st := .rxValidate }

/-- RX_BODY (R207). -/
def phaseRxBody (c : StreamChoice) (s : State) : Host.Outcome State Fault Refusal :=
  if s.rxcnt < s.hdrLen then
    match s.takeOutcome c with
    | .timeout => .next (s.raise .timeout)
    | .readFail => .next (s.raise .readFail)
    | .byte b =>
      if s.rxcnt.toNat < Config.bodyMax then
        .next { s.dropHead with rxbody := s.rxbody.setIfInBounds s.rxcnt.toNat b, rxcnt := s.rxcnt + 1 }
      else .fault .bufferRange
    | .wait => .next s
  else .next { s with st := .rxVerify }

/-- RX_VERIFY (R209). -/
def phaseRxVerify (s : State) : Host.Outcome State Fault Refusal :=
  if s.hdrLen.toNat ≤ Config.bodyMax then
    let v := verify (bytesOf s.rxhdr) ((bytesOf s.rxbody).take s.hdrLen.toNat)
    let s := { s with sum := v.sum }
    if v.ok then .next { s with st := .rxDecode }
    else .next (s.raise (.integrity v.expected v.got))
  else .fault .bufferRange

/-- RX_DECODE: the copy into RNT when a table was expected (R211). -/
def State.copyBody (s : State) : State :=
  match s.argExp with
  | .none => s
  | .rnt => { s with rnt := s.rxbody, rntValid := true }

/-- The end of a successful exchange (R212). -/
def endExchange (s : State) : Host.Outcome State Fault Refusal :=
  let s := s.disarm
  if s.seqOp = .none then .next { s with st := .done } else seqNext false s

/-- RX_DECODE (R211). -/
def phaseRxDecode (s : State) : Host.Outcome State Fault Refusal :=
  endExchange s.copyBody

/-- NAME_ENC (41_channel_name_codec.md R172). It belongs to ENCODE_NAMES and OP_SET_NAMES only; no run reaches it in
another device operation [log 14]. -/
def phaseNameEnc (s : State) : Host.Outcome State Fault Refusal :=
  let s := { s with rnt := encodeTable s.lnt, rntValid := true }
  match s.seqOp with
  | .none => .next { s with st := .done }
  | .setNames => .next { s with st := .txBuild }
  | .reset => .fault .noRule
  | .getNames => .fault .noRule

/-- NAME_DEC (41_channel_name_codec.md R171, R172). It belongs to DECODE_NAMES and OP_GET_NAMES only; no run reaches it in
another device operation [log 14]. -/
def phaseNameDec (s : State) : Host.Outcome State Fault Refusal :=
  let s := { s with lnt := decodeTable s.rnt, nameUnterminated := tableUnterminated s.rnt }
  match s.seqOp with
  | .none => .next { s with lntValid := true, st := .done }
  | .getNames => seqNext true s
  | .reset => .fault .noRule
  | .setNames => .fault .noRule

end Sys2Proof.Machine
end

