-- ==== Sys2Proof/Machine/Dispatch.lean ====
section
/-! DEFINITION. One arm per instruction. -/

namespace Sys2Proof.Machine

/-- The meaning of an instruction. -/
def exec (i : Instr) (s : State) : Host.Outcome State Fault Refusal :=
  match i with
  -- wire commands, as received headers
  | .nop l c => Sys2Proof.Machine.execNop l c s
  | .ack l c => Sys2Proof.Machine.execAck l c s
  | .resetUnit l c => Sys2Proof.Machine.execResetUnit l c s
  | .nak l c => Sys2Proof.Machine.execNak l c s
  | .getChannelNames l c => Sys2Proof.Machine.execGetChannelNames l c s
  | .setChannelNames l c => Sys2Proof.Machine.execSetChannelNames l c s
  | .disconnect17 l c => Sys2Proof.Machine.execDisconnect17 l c s
  | .disconnect04 l c => Sys2Proof.Machine.execDisconnect04 l c s
  -- host operations
  | .encodeNames t => Sys2Proof.Machine.execEncodeNames t s
  | .decodeNames => Sys2Proof.Machine.execDecodeNames s
  | .send cmd body => Sys2Proof.Machine.execSend cmd body s
  | .receive exp => Sys2Proof.Machine.execReceive exp s
  | .sendReceive cmd body exp => Sys2Proof.Machine.execSendReceive cmd body exp s
  | .opReset => Sys2Proof.Machine.execOpReset s
  | .opGetNames => Sys2Proof.Machine.execOpGetNames s
  | .opSetNames t => Sys2Proof.Machine.execOpSetNames t s

end Sys2Proof.Machine
end

