-- ==== Sys2Proof/Machine/Engine.lean ====
section
/-! DEFINITION. RX_VALIDATE, which decodes the received header and runs it, and one turn of the engine
(42_command_response_engine.md R203, R218; 10_state.md R24). -/

namespace Sys2Proof.Machine

/-- RX_VALIDATE: dispatch on the command of the parsed header; an unassigned opcode is "any other command value" and fails
as unrecognized (R203, R206, 30_encoding.md R99). -/
def phaseRxValidate (s : State) : Host.Outcome State Fault Refusal :=
  match decodeFields s.hdrCmd s.hdrLen s.hdrCsum with
  | .instr i => exec i s
  | .rejected _ => .next (s.raise (.unrecognized s.hdrCmd))

/-- One turn of the engine: the phase ST names; in a rest state it takes no step (R218). -/
def engineStep (c : StreamChoice) (s : State) : Host.Outcome State Fault Refusal :=
  match s.st with
  | .idle => .next s
  | .txBuild => phaseTxBuild s
  | .txSend => phaseTxSend c s
  | .rxHdr => phaseRxHdr c s
  | .rxValidate => phaseRxValidate s
  | .rxBody => phaseRxBody c s
  | .rxVerify => phaseRxVerify s
  | .rxDecode => phaseRxDecode s
  | .done => .next s
  | .failed => .next s
  | .nameEnc => phaseNameEnc s
  | .nameDec => phaseNameDec s

end Sys2Proof.Machine
end

