-- ==== Sys2Proof/Machine/Inputs.lean ====
section
/-! DEFINITION. What an input from outside does (00_scope.md R9, R10; 60_exceptions.md R270, R271; 20_memory.md R70, R71;
70_reset_and_hazards.md R300, R301). -/

namespace Sys2Proof.Machine

/-- The host presents an operation: a reserved selector is refused, any other is run, and refuses itself where ISSUE does
(42_command_response_engine.md R190, 30_encoding.md R111). -/
def hostIssues (p : Port) (s : State) : Host.Outcome State Fault Refusal :=
  match decodePort p with
  | .instr i => exec i s
  | .rejected _ => .next (s.refuse .reservedOp)

/-- The deadline expires; the event exists only while the timer is armed (60_exceptions.md R271) [log 11]. -/
def State.expire (s : State) : State :=
  if s.tmrArmed then { s with tmrExpired := true } else s

/-- The reset event binds the block to a freshly dialed stream (70_reset_and_hazards.md R300, 10_state.md R46). -/
def State.resetFresh (s : State) (already : List Byte) : State :=
  { State.reset with
    cfgDisconnect := s.cfgDisconnect
    rxs := already
    inputs := s.inputs
    freeCtr := s.freeCtr }

/-- The reset event, the old stream re-used: what was pushed stays pushed and the stream's condition
stays; after an abandoned operation or a transport
error nothing is promised about RXS (70_reset_and_hazards.md R301, R316) [log 10]. -/
def State.resetReuse (s : State) : State :=
  { State.reset with
    cfgDisconnect := s.cfgDisconnect
    txs := s.txs
    rxs := if s.busy || s.connUnreliable then Config.freeStream s.freeCtr else s.rxs
    closed := s.closed
    txStalled := s.txStalled
    inputs := s.inputs
    freeCtr := s.freeCtr + 1 }

/-- One input, taken off the list already. -/
def applyInput (i : Input) (s : State) : Host.Outcome State Fault Refusal :=
  match i with
  | .host p => hostIssues p s
  | .peer bytes => .next { s with rxs := s.rxs ++ bytes }
  | .expire => .next s.expire
  | .close => .next { s with closed := true }
  | .stall => .next { s with txStalled := true }
  | .resume => .next { s with txStalled := false }
  | .reset (some already) => .next (s.resetFresh already)
  | .reset none => .next s.resetReuse
  | .engine c => engineStep c s

end Sys2Proof.Machine
end

