-- ==== Sys2Proof/Machine/Step.lean ====
section
/-! DEFINITION. One step of the machine, and how an instruction is placed where the next step runs it. -/

namespace Sys2Proof.Machine

/-- One step (00_scope.md R9): the oldest input is taken off the list and applied; with no input left it is the engine's
turn, and the stream reports no failure; a stalled stream then stays stalled for ever [log 4] [log 25]. -/
def step (s : State) : Host.Outcome State Fault Refusal :=
  match s.inputs with
  | [] => engineStep .ready s
  | i :: rest => applyInput i { s with inputs := rest }

/-- `s` with the instruction of a table word placed so that the next step runs exactly it [log 5]: a host operation is
presented on the port before every other input; a header stands in RXHDR with all 8 bytes taken and parsed, and the engine
has the turn. -/
def State.withFetchWord (s : State) (nbits w : Nat) : State :=
  if nbits = 64 then
    let h := parseHeader (leBytes 8 w)
    { s with
      rxhdr := bufOf Config.hdrSize (leBytes 8 w)
      rxcnt := 8
      hdrCmd := h.command
      hdrLen := h.bodyLength
      hdrCsum := h.checksum
      st := .rxValidate
      inputs := .engine .ready :: s.inputs }
  else { s with inputs := .host (barePort (BitVec.ofNat 4 w)) :: s.inputs }

end Sys2Proof.Machine
end

