-- ==== Sys2Proof/Safety.lean ====
section
/-! DEFINITION. What counts as a safe run: the transition graph of ST (10_state.md R24), the invariant every step keeps, the
premise TX_PROGRESS, and the condition of an undisturbed run. -/

namespace Sys2Proof.Machine

/-- The transition graph of ST, complete (10_state.md R24); a step that leaves ST unchanged is no transition. -/
def Phase.edge : Phase → Phase → Bool
  | .idle, .nameEnc | .idle, .nameDec | .idle, .txBuild | .idle, .rxHdr => true
  | .done, .nameEnc | .done, .nameDec | .done, .txBuild | .done, .rxHdr => true
  | .failed, .nameEnc | .failed, .nameDec | .failed, .txBuild | .failed, .rxHdr => true
  | .nameEnc, .done | .nameEnc, .txBuild => true
  | .nameDec, .done | .nameDec, .txBuild => true
  | .txBuild, .txSend => true
  | .txSend, .rxHdr | .txSend, .done | .txSend, .failed => true
  | .rxHdr, .rxValidate | .rxHdr, .failed => true
  | .rxValidate, .rxBody | .rxValidate, .failed => true
  | .rxBody, .rxVerify | .rxBody, .failed => true
  | .rxVerify, .rxDecode | .rxVerify, .failed => true
  | .rxDecode, .done | .rxDecode, .txBuild | .rxDecode, .nameDec => true
  | _, _ => false

/-- The phases of the receive part, RX_HDR to RX_DECODE. -/
def Phase.receiving : Phase → Bool
  | .rxHdr | .rxValidate | .rxBody | .rxVerify | .rxDecode => true
  | .idle | .txBuild | .txSend | .done | .failed | .nameEnc | .nameDec => false

/-- The phases in which the header of this exchange has been parsed. -/
def Phase.parsed : Phase → Bool
  | .rxValidate | .rxBody | .rxVerify | .rxDecode => true
  | .idle | .txBuild | .txSend | .rxHdr | .done | .failed | .nameEnc | .nameDec => false

/-- The phases in which the response is known to be an ACK of the expected length. -/
def Phase.sized : Phase → Bool
  | .rxBody | .rxVerify | .rxDecode => true
  | .idle | .txBuild | .txSend | .rxHdr | .rxValidate | .done | .failed | .nameEnc | .nameDec => false

/-- The rows of the error table (60_exceptions.md R260). -/
def ErrKind.row : ErrKind → ErrSub → Bool
  | .none, .none => true
  | .transport, .writeFail | .transport, .readFail | .transport, .timeout => true
  | .protocolShape, .sizeMismatch | .protocolShape, .unrecognized => true
  | .integrity, .none => true
  | .deviceRejected, .none => true
  | _, _ => false

/-- The operands of a device operation's first exchange: command, body shape, expected shape
(43_device_operations.md R242, R244, R246); of no other operation. -/
def OpSel.firstOperands : OpSel → Option (U16 × Shape × Shape)
  | .opReset => some (Config.opResetUnit, .none, .none)
  | .opGetNames => some (Config.opGetChannelNames, .none, .rnt)
  | .opSetNames => some (Config.opSetChannelNames, .rnt, .none)
  | .none | .encodeNames | .decodeNames | .send | .receive | .sendReceive => Option.none

/-- What holds of every state a run reaches. -/
structure State.Inv (s : State) : Prop where
  /-- The timer is armed exactly in the receive part (R35, R199, R212, R266). -/
  armed : s.tmrArmed = s.st.receiving
  /-- An expiry is remembered only while the timer is armed (R35, R270). -/
  expired : s.tmrExpired = true → s.tmrArmed = true
  /-- SEQ_OP is the device operation in OP, or none (R29, R190). -/
  seqOp : s.seqOp = s.op.seqOp
  /-- SEQ_STEP is 0 exactly when no device operation is sequenced (R29). -/
  seqStep : s.seqStep = .zero ↔ s.seqOp = .none
  /-- In a device operation's first exchange the latches hold its operands (R242, R244, R246). -/
  firstExchange : s.seqStep = .first → s.op.firstOperands = some (s.argCmd, s.argBody, s.argExp)
  /-- In its second they hold those of the DISCONNECT exchange (R241). -/
  secondExchange : s.seqStep = .second →
    s.argCmd = s.cfgDisconnect.code ∧ s.argBody = .none ∧ s.argExp = .none
  /-- A failure is recorded exactly in FAILED (R36, R266, R268). -/
  failed : s.errKind ≠ .none ↔ s.st = .failed
  /-- ERR_KIND and ERR_SUB are a row of the error table (R260). -/
  errRow : s.errKind.row s.errSub = true
  /-- A transport failure marks the connection (R33, R261). -/
  unreliable : s.errKind = .transport → s.connUnreliable = true
  /-- TXLEN is a length of a frame the block builds, or 0 before the first (R25). -/
  txlen : s.txlen = 0#11 ∨ s.txlen = 8#11 ∨ s.txlen = 1544#11
  /-- No more is pushed than the frame has (R25). -/
  txcnt : s.txcnt ≤ s.txlen
  /-- The bytes pushed so far by this SEND are `TXBUF[0 .. TXCNT−1]` (R25). -/
  pushed : s.st = .txSend → (bytesOf s.txbuf).take s.txcnt.toNat <:+ s.txs
  /-- The frame being pushed is the one constructed from the operand latches (R37, R76, R135). -/
  frame : s.st = .txSend → (bytesOf s.txbuf).take s.txlen.toNat = construct s.argCmd s.requestBody
  /-- The header read takes at most 8 bytes (R26). -/
  hdrCount : s.st = .rxHdr → s.rxcnt.toNat ≤ Config.hdrSize
  /-- The header registers hold the parse of RXHDR (R27, R202). -/
  parsed : s.st.parsed = true → parseHeader (bytesOf s.rxhdr) = ⟨s.hdrCmd, s.hdrLen, s.hdrCsum⟩
  /-- A body is read only for an ACK whose length is the expected size, and not beyond it (R26, R204). -/
  sized : s.st.sized = true → s.hdrCmd = Config.opAck ∧ s.hdrLen = s.argExp.size ∧ s.rxcnt ≤ s.hdrLen
  /-- RX_DECODE is reached only by a frame whose checksum is right (R209, R213). -/
  verified : s.st = .rxDecode →
    (verify (bytesOf s.rxhdr) ((bytesOf s.rxbody).take s.hdrLen.toNat)).ok = true
  /-- A body of shape RNT is framed only from a written RNT (R135, R191). -/
  rntWritten : s.st = .txBuild → s.argBody = .rnt → s.rntValid = true
  /-- NAME_ENC belongs to ENCODE_NAMES and OP_SET_NAMES (R172). -/
  nameEnc : s.st = .nameEnc → s.op = .encodeNames ∨ s.op = .opSetNames
  /-- NAME_DEC belongs to DECODE_NAMES and to the first exchange of OP_GET_NAMES, and reads a written RNT (R172, R241). -/
  nameDec : s.st = .nameDec →
    (s.op = .decodeNames ∨ (s.op = .opGetNames ∧ s.seqStep = .first)) ∧ s.rntValid = true
  /-- The result of OP_GET_NAMES is visible only when the operation is done (R31, R245). -/
  withheld : s.op = .opGetNames → s.lntValid = true → s.st = .done

/-- `t` is `s` after `Fail(kind, sub)` in the receive part: nothing else changes but RXBODY, which is unspecified then
(60_exceptions.md R266, 10_state.md R39); the context registers of other failures stay too [log 26]. -/
def State.failedAs (s t : State) (kind : ErrKind) (sub : ErrSub) : Prop :=
  t = { s with
    errKind := kind
    errSub := sub
    connUnreliable := s.connUnreliable || kind == .transport
    tmrArmed := false
    tmrExpired := false
    st := .failed
    rxbody := t.rxbody
    freeCtr := t.freeCtr }

/-- `t` is `s` after the receive part has begun: RXS keeps its bytes unless CONN_UNRELIABLE is set, when nothing is
promised about them (42_command_response_engine.md R199, 70_reset_and_hazards.md R316). -/
def State.receiveBegun (s t : State) : Prop :=
  t = { s with tmrArmed := true, tmrExpired := false, rxcnt := 0, st := .rxHdr, rxs := t.rxs, freeCtr := t.freeCtr } ∧
    (s.connUnreliable = false → t.rxs = s.rxs)

/-- Whether a push that is still unanswered after these inputs is never answered: the stream, which began in this condition,
is then stalled and not closed (20_memory.md R67, R70, R71). -/
def pushesHang : List Input → (stalled closed : Bool) → Bool
  | [], stalled, closed => stalled && !closed
  | .stall :: rest, _, closed => pushesHang rest true closed
  | .resume :: rest, _, closed => pushesHang rest false closed
  | .close :: rest, stalled, _ => pushesHang rest stalled true
  | .reset (some _) :: rest, _, _ => pushesHang rest false false
  | .reset none :: rest, stalled, closed => pushesHang rest stalled closed
  | .host _ :: rest, stalled, closed => pushesHang rest stalled closed
  | .peer _ :: rest, stalled, closed => pushesHang rest stalled closed
  | .expire :: rest, stalled, closed => pushesHang rest stalled closed
  | .engine _ :: rest, stalled, closed => pushesHang rest stalled closed

/-- The premise TX_PROGRESS: every push is eventually accepted or failed (20_memory.md R70) [log 25]. -/
def State.txProgress (s : State) : Prop :=
  pushesHang s.inputs s.txStalled s.closed = false

/-- No input is pending, the stream is open, no transport error has happened, and TX_PROGRESS holds: the premises of a claim
that an operation succeeds, on the state's side (42_command_response_engine.md R217, 70_reset_and_hazards.md R316). -/
def State.undisturbed (s : State) : Prop :=
  s.inputs = [] ∧ s.closed = false ∧ s.connUnreliable = false ∧ s.txProgress

end Sys2Proof.Machine
end

