-- ==== Sys2Proof/Certificates/Slice0/Obligations.lean ====
section
/-! DEFINITION. The statements for the provers. -/

open Sys2Proof Sys2Proof.Machine

/-! ## Decoding and encoding -/

/-- The decoder reads back every encoded instruction, with every operand at every value. -/
def Obligations.DecodeOfEncodeIsIdentity : Prop :=
  ∀ i : Instr, decode (encode i) = .instr i

/-- A decoded header is encoded by exactly its first 8 bytes, and fewer than 8 bytes are no header: no bit of a header
is dropped or invented. -/
def Obligations.EncodeOfDecodedHeaderIsItsBytes : Prop :=
  (∀ bs i, decodeHeader bs = .instr i → encode i = .header (bs.take 8)) ∧
    ∀ bs : List Byte, bs.length < 8 → decodeHeader bs = .rejected (.shortHeader bs.length)

/-- The command map of R97, the whole 16-bit field deciding; every other value is unassigned and rejected by name. The
model's choice [log 19]: both values of DISCONNECT are rows of the map for every instance, whichever of the two it is
configured for; R98 calls the other one unassigned for that instance. -/
def Obligations.CommandMapIsTheTable : Prop :=
  ∀ (c l : U16) (k : U32),
    decodeFields 0x0000#16 l k = .instr (.nop l k) ∧
    decodeFields 0x0006#16 l k = .instr (.ack l k) ∧
    decodeFields 0x000A#16 l k = .instr (.resetUnit l k) ∧
    decodeFields 0x0015#16 l k = .instr (.nak l k) ∧
    decodeFields 0x1000#16 l k = .instr (.getChannelNames l k) ∧
    decodeFields 0x1001#16 l k = .instr (.setChannelNames l k) ∧
    decodeFields 0x0017#16 l k = .instr (.disconnect17 l k) ∧
    decodeFields 0x0004#16 l k = .instr (.disconnect04 l k) ∧
    (c ∉ [0x0000#16, 0x0006#16, 0x000A#16, 0x0015#16, 0x1000#16, 0x1001#16, 0x0017#16, 0x0004#16] →
      decodeFields c l k = .rejected (.unassignedOpcode c))

/-- The selector list of R110 with the operands each selector carries, and the reserved selectors of R111 rejected. The
port's operand lanes are the model's own layout [log 15]. -/
def Obligations.SelectorMapIsTheTable : Prop :=
  ∀ p : Port,
    (p.op = 1#4 → decodePort p = .instr (.encodeNames p.table)) ∧
    (p.op = 2#4 → decodePort p = .instr .decodeNames) ∧
    (p.op = 3#4 → p.body = 0#1 → decodePort p = .instr (.send p.cmd .none)) ∧
    (p.op = 3#4 → p.body = 1#1 → decodePort p = .instr (.send p.cmd .rnt)) ∧
    (p.op = 4#4 → p.exp = 0#1 → decodePort p = .instr (.receive .none)) ∧
    (p.op = 4#4 → p.exp = 1#1 → decodePort p = .instr (.receive .rnt)) ∧
    (p.op = 5#4 → p.body = 0#1 → p.exp = 0#1 → decodePort p = .instr (.sendReceive p.cmd .none .none)) ∧
    (p.op = 5#4 → p.body = 0#1 → p.exp = 1#1 → decodePort p = .instr (.sendReceive p.cmd .none .rnt)) ∧
    (p.op = 5#4 → p.body = 1#1 → p.exp = 0#1 → decodePort p = .instr (.sendReceive p.cmd .rnt .none)) ∧
    (p.op = 5#4 → p.body = 1#1 → p.exp = 1#1 → decodePort p = .instr (.sendReceive p.cmd .rnt .rnt)) ∧
    (p.op = 8#4 → decodePort p = .instr .opReset) ∧
    (p.op = 9#4 → decodePort p = .instr .opGetNames) ∧
    (p.op = 10#4 → decodePort p = .instr (.opSetNames p.table)) ∧
    (p.op ∈ [0#4, 6#4, 7#4, 11#4, 12#4, 13#4, 14#4, 15#4] → decodePort p = .rejected (.reservedSelector p.op))

/-- Words written out from the spec's encodings decode to the instruction they stand for: the canonical frames of R104
as 64-bit words, and selectors [log 15]. That both DISCONNECT words decode, whatever the instance's DISCONNECT_OPCODE, is
the model's choice [log 19]: R98 calls one of them unassigned for an instance. -/
def Obligations.WordsOfTheSpecDecode : Prop :=
  decodeTableWord 64 0x0000000000000000 = some (.nop 0 0) ∧
    decodeTableWord 64 0xFFFFFFFA00000006 = some (.ack 0 0xFFFFFFFA) ∧
    decodeTableWord 64 0xFFFFFFEB00000015 = some (.nak 0 0xFFFFFFEB) ∧
    decodeTableWord 64 0xFFFFFD5006001001 = some (.setChannelNames 1536 0xFFFFFD50) ∧
    decodeTableWord 64 0xFFFFFFE900000017 = some (.disconnect17 0 0xFFFFFFE9) ∧
    decodeTableWord 64 0xFFFFFFFC00000004 = some (.disconnect04 0 0xFFFFFFFC) ∧
    decodeTableWord 8 0x8 = some .opReset ∧
    decodeTableWord 8 0x4 = some (.receive .none) ∧
    decodeTableWord 8 0x6 = none

/-! ## The Frame Codec -/

/-- SUM8 is the arithmetic sum of the unsigned bytes modulo 2^32, 0 of the empty sequence, and adds up over any
chunking. -/
def Obligations.ByteSumIsArithmetic : Prop :=
  (∀ bs : List Byte, (sum8 bs).toNat = (bs.map BitVec.toNat).sum % 2 ^ 32) ∧
    sum8 [] = 0 ∧
    (∀ a b : List Byte, sum8 (a ++ b) = sum8 a + sum8 b) ∧
    sum8 [0x0A, 0x00, 0x00, 0x00] = 10

/-- The sum of the bytes of one frame never wraps: at most 255 a byte, at most 16,712,445 for any frame the length field
can describe, at most 392,700 in this block; and the command, length and body bytes of a frame sum to 0 only for command
0 without a body. -/
def Obligations.FrameSumNeverWraps : Prop :=
  (∀ bs : List Byte, (bs.map BitVec.toNat).sum ≤ 255 * bs.length) ∧
    (∀ bs : List Byte, bs.length ≤ 65539 →
      (sum8 bs).toNat = (bs.map BitVec.toNat).sum ∧ (sum8 bs).toNat ≤ 16712445) ∧
    (∀ bs : List Byte, bs.length ≤ 1540 → (sum8 bs).toNat ≤ 392700) ∧
    (∀ (cmd : U16) (body : List Byte), body.length ≤ 65535 →
      (sum8 (bytes16 cmd ++ bytes16 (BitVec.ofNat 16 body.length) ++ body) = 0 ↔ cmd = 0 ∧ body = []))

/-- CHECKSUM is the two's-complement negation: `(~sum)+1`, `(2^32 − sum) mod 2^32`, 0 of 0; read as signed it is −S for
the sum of a frame. -/
def Obligations.ChecksumIsNegation : Prop :=
  ∀ s : U32,
    checksum s = ~~~s + 1 ∧
    (checksum s).toNat = (2 ^ 32 - s.toNat) % 2 ^ 32 ∧
    checksum 0 = 0 ∧
    (s ≠ 0 → (checksum s).toNat = 2 ^ 32 - s.toNat) ∧
    s + checksum s = 0 ∧
    checksum (checksum s) = s ∧
    (s.toNat ≤ 16712445 → (checksum s).toInt = -(s.toNat : Int)) ∧
    checksum 10 = 0xFFFFFFF6

/-- CONSTRUCT lays out command, body length and checksum little-endian and then the body, the checksum being the negated
byte sum of the whole buffer with the checksum field still zero (R134); with its worked example. -/
def Obligations.ConstructLaysOutTheFrame : Prop :=
  (∀ (cmd : U16) (body : List Byte), body.length ≤ 65535 →
    construct cmd body =
      [cmd.extractLsb' 0 8, cmd.extractLsb' 8 8, BitVec.ofNat 8 body.length, BitVec.ofNat 8 (body.length / 256)] ++
      bytes32 (checksum (sum8
        ([cmd.extractLsb' 0 8, cmd.extractLsb' 8 8, BitVec.ofNat 8 body.length, BitVec.ofNat 8 (body.length / 256)] ++
          [0, 0, 0, 0] ++ body))) ++ body) ∧
    construct 0x000A#16 [] = [0x0A, 0x00, 0x00, 0x00, 0xF6, 0xFF, 0xFF, 0xFF]

/-- The bodiless frames of R104: bytes, byte sum, checksum and 64-bit word. They are what SEND and the sequencer put on
the stream for each wire command. -/
def Obligations.CanonicalFramesAreTheTable : Prop :=
  ∀ (cmd : U16) (bytes : List Byte) (S k : U32) (W : Nat),
    (cmd, bytes, S, k, W) ∈
      [(Config.opNop, [0x00#8, 0x00, 0x00, 0x00, 0x00, 0x00, 0x00, 0x00], 0#32, 0x00000000#32, 0x0000000000000000),
        (Config.opAck, [0x06, 0x00, 0x00, 0x00, 0xFA, 0xFF, 0xFF, 0xFF], 6, 0xFFFFFFFA, 0xFFFFFFFA00000006),
        (Config.opResetUnit, [0x0A, 0x00, 0x00, 0x00, 0xF6, 0xFF, 0xFF, 0xFF], 10, 0xFFFFFFF6, 0xFFFFFFF60000000A),
        (Config.opNak, [0x15, 0x00, 0x00, 0x00, 0xEB, 0xFF, 0xFF, 0xFF], 21, 0xFFFFFFEB, 0xFFFFFFEB00000015),
        (Config.opGetChannelNames, [0x00, 0x10, 0x00, 0x00, 0xF0, 0xFF, 0xFF, 0xFF], 16, 0xFFFFFFF0,
          0xFFFFFFF000001000),
        (DisconnectOpcode.v0017.code, [0x17, 0x00, 0x00, 0x00, 0xE9, 0xFF, 0xFF, 0xFF], 23, 0xFFFFFFE9,
          0xFFFFFFE900000017),
        (DisconnectOpcode.v0004.code, [0x04, 0x00, 0x00, 0x00, 0xFC, 0xFF, 0xFF, 0xFF], 4, 0xFFFFFFFC,
          0xFFFFFFFC00000004)] →
    construct cmd [] = bytes ∧ sum8 (bytes.take 4) = S ∧ checksum S = k ∧ leBytes 8 W = bytes

/-- PARSE_HEADER is total field extraction and the inverse of the header part of CONSTRUCT, in both directions. -/
def Obligations.ParseHeaderInvertsHeaderBytes : Prop :=
  (∀ (c l : U16) (k : U32), parseHeader (bytes16 c ++ bytes16 l ++ bytes32 k) = ⟨c, l, k⟩) ∧
    ∀ h : List Byte, h.length = 8 →
      bytes16 (parseHeader h).command ++ bytes16 (parseHeader h).bodyLength ++ bytes32 (parseHeader h).checksum = h

/-- The round-trip law of frames: PARSE of CONSTRUCT gives back command, length, checksum and body, and the frame
verifies. -/
def Obligations.ParseOfConstructRoundTrips : Prop :=
  ∀ (cmd : U16) (body : List Byte), body.length ≤ 65535 →
    parse (construct cmd body) =
      some (⟨cmd, BitVec.ofNat 16 body.length,
        checksum (sum8 (bytes16 cmd ++ bytes16 (BitVec.ofNat 16 body.length) ++ body))⟩, body) ∧
    (verify ((construct cmd body).take 8) body).ok = true

/-- VERIFY: the sum over the command and length bytes and the body, the expected and the received checksum, and the
verdict in all its equivalent forms, the checksum invariant of R133 among them; a zero placeholder for the checksum adds
nothing to the sum. -/
def Obligations.VerifyIsTheChecksumInvariant : Prop :=
  ∀ h body : List Byte, h.length = 8 →
    (verify h body).sum = sum8 (h.take 4 ++ body) ∧
    (verify h body).expected = checksum (sum8 (h.take 4 ++ body)) ∧
    (verify h body).got = (parseHeader h).checksum ∧
    ((verify h body).ok = true ↔
      sum8 (h.take 2) + sum8 ((h.drop 2).take 2) + sum8 body + (parseHeader h).checksum = 0) ∧
    ((verify h body).ok = true ↔ (verify h body).got = (verify h body).expected) ∧
    sum8 (h.take 4 ++ [0, 0, 0, 0] ++ body) = sum8 (h.take 4 ++ body)

/-- A frame that verifies stops verifying when one byte of its body, one of its two command bytes, or one of its four
checksum bytes is changed; any change of command, length and body bytes whose byte deltas sum to zero is not detected.
-/
def Obligations.SingleByteCorruptionIsDetected : Prop :=
  ∀ h body : List Byte, h.length = 8 → body.length ≤ 65535 → (verify h body).ok = true →
    (∀ (i : Nat) (b : Byte), i < body.length → body[i]? ≠ some b → (verify h (body.set i b)).ok = false) ∧
    (∀ (i : Nat) (b : Byte), i < 8 → i ≠ 2 → i ≠ 3 → h[i]? ≠ some b → (verify (h.set i b) body).ok = false) ∧
    (∀ h' body' : List Byte, h'.length = 8 → h'.drop 4 = h.drop 4 →
      ((h'.take 4 ++ body').map BitVec.toNat).sum = ((h.take 4 ++ body).map BitVec.toNat).sum →
      (verify h' body').ok = true)

/-! ## The Channel Name Codec -/

/-- ENCODE_LINE: twelve bytes, the first min(len, 8) bytes of the string and zeros after them, so the terminator and the
reserved bytes are zero and only the first 8 bytes of the string matter. -/
def Obligations.EncodeLineIsTheRecord : Prop :=
  ∀ s : Line,
    (encodeLine s).length = 12 ∧
    (∀ i, i < min s.length 8 → (encodeLine s)[i]? = s[i]?) ∧
    (∀ i, min s.length 8 ≤ i → i < 12 → (encodeLine s)[i]? = some 0) ∧
    (∀ s' : Line, s'.take 8 = s.take 8 → encodeLine s' = encodeLine s) ∧
    encodeLine [0x48, 0x45, 0x4C, 0x4C, 0x4F] =
      [0x48, 0x45, 0x4C, 0x4C, 0x4F, 0x00, 0x00, 0x00, 0x00, 0x00, 0x00, 0x00]

/-- DECODE_LINE: the bytes before the least index below 8 that holds a zero, all 8 when there is none; the flag only
when none of the nine bytes of the field is zero. -/
def Obligations.DecodeLineScansForTheFirstZero : Prop :=
  ∀ r : List Byte, r.length = 12 →
    (∀ k, k < 8 → r[k]? = some 0 → (∀ i, i < k → r[i]? ≠ some 0) →
      decodeLine r = r.take k ∧ lineUnterminated r = false) ∧
    ((∀ i, i < 8 → r[i]? ≠ some 0) →
      decodeLine r = r.take 8 ∧ (lineUnterminated r = true ↔ r[8]? ≠ some 0)) ∧
    decodeLine [0x4E, 0x49, 0x43, 0x4B, 0, 0, 0, 0, 0, 0, 0, 0] = [0x4E, 0x49, 0x43, 0x4B]

/-- What DECODE_LINE does not look at: bytes after the first zero, and the three reserved bytes. -/
def Obligations.DecodeLineIgnoresTheRest : Prop :=
  ∀ r r' : List Byte, r.length = 12 → r'.length = 12 →
    (r'.take 9 = r.take 9 → decodeLine r' = decodeLine r ∧ lineUnterminated r' = lineUnterminated r) ∧
    (∀ k, k ≤ 8 → r[k]? = some 0 → r'.take (k + 1) = r.take (k + 1) →
      decodeLine r' = decodeLine r ∧ lineUnterminated r' = lineUnterminated r)

/-- ENCODE_TABLE puts the record of channel `ch`, line `ln` at offset `24·ch + 12·ln`, and the records are the whole
table. -/
def Obligations.EncodeTablePlacesEveryRecord : Prop :=
  ∀ (t : NameTable) (ch : Fin 64),
    ((bytesOf (encodeTable t)).drop (24 * ch.val)).take 12 = encodeLine t[ch].line1 ∧
    ((bytesOf (encodeTable t)).drop (24 * ch.val + 12)).take 12 = encodeLine t[ch].line2 ∧
    (bytesOf (encodeTable t)).length = 1536

/-- DECODE_TABLE decodes every slot from its own record, its flag is the OR of the 128 line flags, and every decoded
string has length 0 to 8 and contains no zero byte (R167, R168). -/
def Obligations.DecodeTableReadsEveryRecord : Prop :=
  ∀ r : Buf Config.rntSize,
    (∀ ch : Fin 64,
      (decodeTable r)[ch].line1 = decodeLine (((bytesOf r).drop (24 * ch.val)).take 12) ∧
      (decodeTable r)[ch].line2 = decodeLine (((bytesOf r).drop (24 * ch.val + 12)).take 12)) ∧
    (tableUnterminated r = true ↔
      ∃ k, k < 128 ∧ lineUnterminated (((bytesOf r).drop (12 * k)).take 12) = true) ∧
    (∀ ch : Fin 64,
      (decodeTable r)[ch].line1.length ≤ 8 ∧ (0 : Byte) ∉ (decodeTable r)[ch].line1 ∧
      (decodeTable r)[ch].line2.length ≤ 8 ∧ (0 : Byte) ∉ (decodeTable r)[ch].line2)

/-- The laws of the name codec: decode of encode cuts every line to its longest zero-free start within 8 bytes, so it is
the identity on tables of short zero-free lines; and encode of decode is the canonical form, in which every record keeps
its content up to the first zero and is zero elsewhere. -/
def Obligations.NameTableRoundTrips : Prop :=
  (∀ (t : NameTable) (ch : Fin 64),
    (decodeTable (encodeTable t))[ch].line1 = (t[ch].line1.take 8).takeWhile (fun b => b != 0#8) ∧
    (decodeTable (encodeTable t))[ch].line2 = (t[ch].line2.take 8).takeWhile (fun b => b != 0#8)) ∧
  (∀ t : NameTable, tableUnterminated (encodeTable t) = false) ∧
  (∀ t : NameTable,
    (∀ ch : Fin 64, t[ch].line1.length ≤ 8 ∧ (0 : Byte) ∉ t[ch].line1 ∧ t[ch].line2.length ≤ 8 ∧ (0 : Byte) ∉ t[ch].line2) →
    decodeTable (encodeTable t) = t) ∧
  (∀ (r : Buf Config.rntSize) (k i : Nat), k < 128 → i < 12 →
    (bytesOf (encodeTable (decodeTable r)))[12 * k + i]? =
      if i < 8 ∧ ∀ j, j ≤ i → (bytesOf r)[12 * k + j]? ≠ some 0 then (bytesOf r)[12 * k + i]? else some 0)

/-! ## Issuing operations -/

/-- A refusal sets OP_REFUSED and changes nothing else: an operation while BUSY, a reserved selector, an operation that
would read RNT before it was written. Every other presentation is accepted: the block is then busy with it and the error
registers are cleared. -/
def Obligations.IssueRefusesOrAccepts : Prop :=
  ∀ (s : State) (p : Port) (rest : List Input), s.inputs = .host p :: rest →
    let refused :=
      s.st.rest = false ∨
      p.op ∈ [0#4, 6#4, 7#4, 11#4, 12#4, 13#4, 14#4, 15#4] ∨
      ((p.op = 3#4 ∨ p.op = 5#4) ∧ p.body = 1#1 ∧ s.rntValid = false) ∨
      (p.op = 2#4 ∧ s.rntValid = false)
    (refused → step s = .next { s with inputs := rest, opRefused := true }) ∧
    (¬ refused → ∃ t, step s = .next t ∧ t.st.rest = false ∧ t.op.code = p.op ∧ t.errKind = .none ∧ t.errSub = .none ∧
      t.seqOp.code = (if p.op ∈ [8#4, 9#4, 10#4] then p.op else 0#4) ∧
      t.seqStep.code = (if p.op ∈ [8#4, 9#4, 10#4] then 1#2 else 0#2) ∧
      t.opRefused = s.opRefused ∧ t.txs = s.txs ∧ t.inputs = rest)

/-- ENCODE_NAMES(T): accepted in a rest state, and its one phase leaves the encoded table in RNT. -/
def Obligations.EncodeNamesEncodesTheTable : Prop :=
  ∀ (s : State) (t : NameTable) (c : StreamChoice), s.st.rest = true →
    let u := { s with
      op := .encodeNames, seqOp := .none, seqStep := .zero, errKind := .none, errSub := .none,
      lnt := t, lntValid := true, st := .nameEnc }
    exec (.encodeNames t) s = .next u ∧
    engineStep c u = .next { u with rnt := encodeTable t, rntValid := true, st := .done }

/-- DECODE_NAMES: accepted in a rest state when RNT holds a table, and its one phase leaves the decoded table in LNT;
refused while RNT_VALID = 0. -/
def Obligations.DecodeNamesDecodesTheTable : Prop :=
  ∀ (s : State) (c : StreamChoice), s.st.rest = true →
    (s.rntValid = true →
      let u := { s with
        op := .decodeNames, seqOp := .none, seqStep := .zero, errKind := .none, errSub := .none, st := .nameDec }
      exec .decodeNames s = .next u ∧
      engineStep c u = .next { u with
        lnt := decodeTable s.rnt, nameUnterminated := tableUnterminated s.rnt, lntValid := true, st := .done }) ∧
    (s.rntValid = false → exec .decodeNames s = .next { s with opRefused := true })

/-- SEND(cmd, body): the latches and the first phase; any command value is accepted. -/
def Obligations.SendStartsTheFrame : Prop :=
  ∀ (s : State) (cmd : U16) (body : Shape), s.st.rest = true → (body = .rnt → s.rntValid = true) →
    exec (.send cmd body) s = .next { s with
      op := .send, seqOp := .none, seqStep := .zero, errKind := .none, errSub := .none,
      argCmd := cmd, argBody := body, st := .txBuild }

/-- RECEIVE(exp): the expected shape is latched and the receive part begins, the deadline armed. With CONN_UNRELIABLE
set, what RXS holds then is free [log 9]. -/
def Obligations.ReceiveBeginsTheReceivePart : Prop :=
  ∀ (s : State) (exp : Shape), s.st.rest = true →
    ∃ t, exec (.receive exp) s = .next t ∧
      State.receiveBegun { s with
        op := .receive, seqOp := .none, seqStep := .zero, errKind := .none, errSub := .none, argExp := exp } t

/-- SEND_RECEIVE(cmd, body, exp): the three latches and the first phase. -/
def Obligations.SendReceiveStartsTheExchange : Prop :=
  ∀ (s : State) (cmd : U16) (body exp : Shape), s.st.rest = true → (body = .rnt → s.rntValid = true) →
    exec (.sendReceive cmd body exp) s = .next { s with
      op := .sendReceive, seqOp := .none, seqStep := .zero, errKind := .none, errSub := .none,
      argCmd := cmd, argBody := body, argExp := exp, st := .txBuild }

/-- The three device operations load the operands of their first exchange: RESET_UNIT without bodies; GET_CHANNEL_NAMES
expecting a table, LNT_VALID cleared; SET_CHANNEL_NAMES with the host's table loaded and first to be encoded. -/
def Obligations.DeviceOperationsLoadTheirOperands : Prop :=
  ∀ (s : State) (t : NameTable), s.st.rest = true →
    exec .opReset s = .next { s with
      op := .opReset, seqOp := .reset, seqStep := .first, errKind := .none, errSub := .none,
      argCmd := 0x000A#16, argBody := .none, argExp := .none, st := .txBuild } ∧
    exec .opGetNames s = .next { s with
      op := .opGetNames, seqOp := .getNames, seqStep := .first, errKind := .none, errSub := .none, lntValid := false,
      argCmd := 0x1000#16, argBody := .none, argExp := .rnt, st := .txBuild } ∧
    exec (.opSetNames t) s = .next { s with
      op := .opSetNames, seqOp := .setNames, seqStep := .first, errKind := .none, errSub := .none, lnt := t,
      lntValid := true, argCmd := 0x1001#16, argBody := .rnt, argExp := .none, st := .nameEnc }

/-! ## The wire commands, received -/

/-- The meaning of ACK, as a received header [log 6]: accepted exactly when its length is the expected size, whatever
its checksum; otherwise a size mismatch with both sizes recorded, before any checksum check and with nothing taken. A
failure leaves the context registers of the others as they were, the model's choice [log 26]. -/
def Obligations.AckIsSizeChecked : Prop :=
  ∀ (s : State) (len : U16) (csum : U32),
    let expected : U16 := if s.argExp = .rnt then 1536#16 else 0#16
    (len = expected → exec (.ack len csum) s = .next { s with rxcnt := 0, st := .rxBody }) ∧
    (len ≠ expected → ∃ t, exec (.ack len csum) s = .next t ∧
      State.failedAs { s with errExpected := expected, errActual := len } t .protocolShape .sizeMismatch)

/-- The meaning of NAK, as a received header [log 6]: device-rejected whatever its length and checksum, the opcode
recorded, nothing taken. A failure leaves the context registers of the others as they were, the model's choice [log 26].
-/
def Obligations.NakIsDeviceRejected : Prop :=
  ∀ (s : State) (len : U16) (csum : U32),
    ∃ t, exec (.nak len csum) s = .next t ∧
      State.failedAs { s with errOpcode := 0x0015#16 } t .deviceRejected .none

/-- NOP, RESET_UNIT, GET_CHANNEL_NAMES, SET_CHANNEL_NAMES and both values of DISCONNECT, received as a response, fail as
unrecognized whatever their length and checksum, the opcode recorded, nothing taken: that is their whole effect as
received headers [log 6]. A failure leaves the context registers of the others as they were, the model's choice [log
26]. -/
def Obligations.OtherCommandsAreUnrecognized : Prop :=
  ∀ (s : State) (len : U16) (csum : U32) (i : Instr) (opcode : U16),
    (i, opcode) ∈ [(Instr.nop len csum, 0x0000#16), (.resetUnit len csum, 0x000A#16),
      (.getChannelNames len csum, 0x1000#16), (.setChannelNames len csum, 0x1001#16),
      (.disconnect17 len csum, 0x0017#16), (.disconnect04 len csum, 0x0004#16)] →
    ∃ t, exec i s = .next t ∧
      State.failedAs { s with errOpcode := opcode } t .protocolShape .unrecognized

/-- RX_VALIDATE tests the 16-bit command alone: an ACK has its length compared with the expected size, and only an equal
one goes on to the body; a NAK is device-rejected whatever else it holds; every other value, assigned or not, is
unrecognized. No case takes a byte or looks at the checksum (R203 to R206). That a failure leaves the context registers of
the others as they were is the model's choice between R36 and I11 [log 26]. -/
def Obligations.ValidateDispatchesOnTheCommand : Prop :=
  ∀ (s : State) (c : StreamChoice), s.st = .rxValidate →
    let expected : U16 := if s.argExp = .rnt then 1536#16 else 0#16
    (s.hdrCmd = 0x0006#16 → s.hdrLen = expected → engineStep c s = .next { s with rxcnt := 0, st := .rxBody }) ∧
    (s.hdrCmd = 0x0006#16 → s.hdrLen ≠ expected → ∃ t, engineStep c s = .next t ∧
      State.failedAs { s with errExpected := expected, errActual := s.hdrLen } t .protocolShape .sizeMismatch) ∧
    (s.hdrCmd = 0x0015#16 → ∃ t, engineStep c s = .next t ∧
      State.failedAs { s with errOpcode := s.hdrCmd } t .deviceRejected .none) ∧
    (s.hdrCmd ≠ 0x0006#16 → s.hdrCmd ≠ 0x0015#16 → ∃ t, engineStep c s = .next t ∧
      State.failedAs { s with errOpcode := s.hdrCmd } t .protocolShape .unrecognized)

/-! ## A step -/

/-- A step whose oldest input [log 4] is an operation on the port runs the decoded operation on the state with that
input taken; one that decodes to nothing is refused. -/
def Obligations.StepRunsTheHostOperation : Prop :=
  ∀ (s : State) (p : Port) (rest : List Input), s.inputs = .host p :: rest →
    (∀ i, decodePort p = .instr i → step s = exec i { s with inputs := rest }) ∧
    (∀ why, decodePort p = .rejected why → step s = .next { s with inputs := rest, opRefused := true })

/-- At the engine's turn a step is the engine's, with the stream's choice for that turn on the state with the turn taken;
with no input left the engine has the turn and the stream reports no failure [log 4]. A step in RX_VALIDATE then runs the
instruction that the parsed header decodes to [log 6]; the header read from the stream is the one decoded. -/
def Obligations.StepRunsTheReceivedHeader : Prop :=
  (∀ s : State, s.inputs = [] → step s = engineStep .ready s) ∧
  (∀ (s : State) (c : StreamChoice) (rest : List Input), s.inputs = .engine c :: rest →
    step s = engineStep c { s with inputs := rest }) ∧
  ∀ (s : State) (i : Instr), s.st = .rxValidate →
    decodeHeader (headerBytes s.hdrCmd s.hdrLen s.hdrCsum) = .instr i →
    (s.inputs = [] → step s = exec i s) ∧
    (∀ c rest, s.inputs = .engine c :: rest → step s = exec i { s with inputs := rest }) ∧
    (s.Inv → decodeHeader (bytesOf s.rxhdr) = .instr i)

/-- In a rest state the engine takes no step, and the timer is disarmed. -/
def Obligations.RestStatesRest : Prop :=
  ∀ (s : State) (c : StreamChoice), s.st.rest = true →
    engineStep c s = .next s ∧ (s.inputs = [] → step s = .next s) ∧
    (s.Inv → s.tmrArmed = false ∧ s.tmrExpired = false)

/-- What the events from outside do, as inputs of the model [log 4]: the deadline flag is set only while armed [log 11],
the peer's bytes join RXS at its end, a close is remembered [log 12], a stall holds until the transport resumes [log 25],
and nothing else changes. -/
def Obligations.EventsTouchOnlyTheirOwnState : Prop :=
  ∀ (s : State) (rest : List Input) (bs : List Byte),
    (s.inputs = .expire :: rest → s.tmrArmed = true → step s = .next { s with inputs := rest, tmrExpired := true }) ∧
    (s.inputs = .expire :: rest → s.tmrArmed = false → step s = .next { s with inputs := rest }) ∧
    (s.inputs = .peer bs :: rest → step s = .next { s with inputs := rest, rxs := s.rxs ++ bs }) ∧
    (s.inputs = .close :: rest → step s = .next { s with inputs := rest, closed := true }) ∧
    (s.inputs = .stall :: rest → step s = .next { s with inputs := rest, txStalled := true }) ∧
    (s.inputs = .resume :: rest → step s = .next { s with inputs := rest, txStalled := false })

/-! ## The phases -/

/-- TX_BUILD: the constructed frame stands in TXBUF, its length in TXLEN, its byte sum without the checksum field in
SUM, TXCNT is 0; bytes of TXBUF beyond the frame are free [log 7]. -/
def Obligations.TxBuildConstructsTheFrame : Prop :=
  ∀ (s : State) (c : StreamChoice), s.st = .txBuild →
    let body := if s.argBody = .rnt then bytesOf s.rnt else []
    let frame := construct s.argCmd body
    ∃ t, engineStep c s = .next t ∧
      (bytesOf t.txbuf).take frame.length = frame ∧
      t.txlen.toNat = frame.length ∧
      t.sum = sum8 (frame.take 4 ++ frame.drop 8) ∧
      t = { s with
        txbuf := t.txbuf, txlen := t.txlen, txcnt := 0, sum := t.sum, st := .txSend, freeCtr := t.freeCtr }

/-- TX_SEND, one step: one byte pushed in offset order, a write failure, or a push not answered yet, because the stream
is blocked for the turn or stalled; and when the frame is out, the end of SEND or the beginning of the receive part.
That a stall is a condition of the stream which withholds acceptance is the model's choice [log 25]. A failure leaves
the context registers of the others as they were, the model's choice [log 26]. -/
def Obligations.TxSendPushesInOrder : Prop :=
  ∀ (s : State) (c : StreamChoice), s.st = .txSend → s.txlen.toNat ≤ 1544 →
    (s.txcnt < s.txlen → s.closed = false → s.txStalled = false → c = .ready →
      ∃ b, (bytesOf s.txbuf)[s.txcnt.toNat]? = some b ∧
        engineStep c s = .next { s with txs := s.txs ++ [b], txcnt := s.txcnt + 1 }) ∧
    (s.txcnt < s.txlen → (s.closed = true ∨ c = .fail) →
      engineStep c s = .next { s with
        errKind := .transport, errSub := .writeFail, connUnreliable := true, tmrArmed := false, tmrExpired := false,
        st := .failed }) ∧
    (s.txcnt < s.txlen → s.closed = false → (c = .blocked ∨ (c = .ready ∧ s.txStalled = true)) →
      engineStep c s = .next s) ∧
    (¬ s.txcnt < s.txlen → s.op = .send → engineStep c s = .next { s with st := .done }) ∧
    (¬ s.txcnt < s.txlen → s.op ≠ .send → ∃ t, engineStep c s = .next t ∧ State.receiveBegun s t)

/-- RX_HDR, one step: at a wait point an expired deadline wins, then a failed or closed stream, then the next byte in
order, else the engine waits; the eighth byte taken, the header is parsed and nothing is checked. That a stream blocked
for the turn delivers a pending byte is the model's choice [log 13]. A failure leaves the context registers of the
others as they were, the model's choice [log 26]. -/
def Obligations.RxHdrTakesEightBytes : Prop :=
  ∀ (s : State) (c : StreamChoice), s.st = .rxHdr →
    (s.rxcnt < 8 → s.tmrExpired = true →
      ∃ t, engineStep c s = .next t ∧ State.failedAs s t .transport .timeout) ∧
    (s.rxcnt < 8 → s.tmrExpired = false → (s.closed = true ∨ c = .fail) →
      ∃ t, engineStep c s = .next t ∧ State.failedAs s t .transport .readFail) ∧
    (∀ b rest, s.rxcnt < 8 → s.tmrExpired = false → s.closed = false → c ≠ .fail → s.rxs = b :: rest →
      ∃ t, engineStep c s = .next t ∧
        bytesOf t.rxhdr = (bytesOf s.rxhdr).set s.rxcnt.toNat b ∧
        t = { s with rxs := rest, rxhdr := t.rxhdr, rxcnt := s.rxcnt + 1 }) ∧
    (s.rxcnt < 8 → s.tmrExpired = false → s.closed = false → c ≠ .fail → s.rxs = [] → engineStep c s = .next s) ∧
    (¬ s.rxcnt < 8 →
      engineStep c s = .next { s with
        hdrCmd := (parseHeader (bytesOf s.rxhdr)).command
        hdrLen := (parseHeader (bytesOf s.rxhdr)).bodyLength
        hdrCsum := (parseHeader (bytesOf s.rxhdr)).checksum
        st := .rxValidate })

/-- RX_BODY, one step, for a length the buffer holds: the same order at a wait point; and no wait point at all once
HDR_LEN bytes are there, at once for length 0. That a stream blocked for the turn delivers a pending byte is the model's
choice [log 13]. A failure leaves the context registers of the others as they were, the model's choice [log 26]. -/
def Obligations.RxBodyTakesExactlyTheLength : Prop :=
  ∀ (s : State) (c : StreamChoice), s.st = .rxBody → s.hdrLen.toNat ≤ 1536 →
    (s.rxcnt < s.hdrLen → s.tmrExpired = true →
      ∃ t, engineStep c s = .next t ∧ State.failedAs s t .transport .timeout) ∧
    (s.rxcnt < s.hdrLen → s.tmrExpired = false → (s.closed = true ∨ c = .fail) →
      ∃ t, engineStep c s = .next t ∧ State.failedAs s t .transport .readFail) ∧
    (∀ b rest, s.rxcnt < s.hdrLen → s.tmrExpired = false → s.closed = false → c ≠ .fail → s.rxs = b :: rest →
      ∃ t, engineStep c s = .next t ∧
        bytesOf t.rxbody = (bytesOf s.rxbody).set s.rxcnt.toNat b ∧
        t = { s with rxs := rest, rxbody := t.rxbody, rxcnt := s.rxcnt + 1 }) ∧
    (s.rxcnt < s.hdrLen → s.tmrExpired = false → s.closed = false → c ≠ .fail → s.rxs = [] →
      engineStep c s = .next s) ∧
    (¬ s.rxcnt < s.hdrLen → engineStep c s = .next { s with st := .rxVerify })

/-- RX_VERIFY: the byte sum of the received command, length and body bytes goes to SUM; a frame whose checksum is wrong
is an integrity failure with both checksums recorded, a right one goes on to RX_DECODE. That the failure leaves the context
registers of the others as they were is the model's choice between R36 and I11 [log 26]. -/
def Obligations.RxVerifyChecksTheFrame : Prop :=
  ∀ (s : State) (c : StreamChoice), s.st = .rxVerify → s.hdrLen.toNat ≤ 1536 →
    let body := (bytesOf s.rxbody).take s.hdrLen.toNat
    let sum := sum8 ((bytesOf s.rxhdr).take 4 ++ body)
    let got := (parseHeader (bytesOf s.rxhdr)).checksum
    (got = checksum sum → engineStep c s = .next { s with sum := sum, st := .rxDecode }) ∧
    (got ≠ checksum sum → ∃ t, engineStep c s = .next t ∧
      State.failedAs { s with sum := sum, errCsumExp := checksum sum, errCsumGot := got } t .integrity .none)

/-- RX_DECODE: the verified body is copied into RNT byte for byte when a table was expected; then the exchange ends: the
timer is disarmed, and the operation is done, or in a device operation the sequencer takes its next step (R211, R212).
-/
def Obligations.RxDecodeCopiesTheBody : Prop :=
  ∀ (s : State) (c : StreamChoice), s.st = .rxDecode →
    let u : State := { s with
      rnt := if s.argExp = .rnt then s.rxbody else s.rnt
      rntValid := if s.argExp = .rnt then true else s.rntValid
      tmrArmed := false
      tmrExpired := false }
    (s.seqOp = .none → engineStep c s = .next { u with st := .done }) ∧
    (s.seqOp ≠ .none → engineStep c s = seqNext false u)

/-- The two name phases: NAME_ENC writes RNT and goes to DONE, or to TX_BUILD in OP_SET_NAMES; NAME_DEC writes LNT and
the unterminated flag and goes to DONE with LNT_VALID set, or on with the sequencer in OP_GET_NAMES. -/
def Obligations.NamePhasesConvertTheTable : Prop :=
  ∀ (s : State) (c : StreamChoice),
    (s.st = .nameEnc → s.seqOp = .none →
      engineStep c s = .next { s with rnt := encodeTable s.lnt, rntValid := true, st := .done }) ∧
    (s.st = .nameEnc → s.seqOp = .setNames →
      engineStep c s = .next { s with rnt := encodeTable s.lnt, rntValid := true, st := .txBuild }) ∧
    (s.st = .nameDec → s.seqOp = .none →
      engineStep c s = .next { s with
        lnt := decodeTable s.rnt, nameUnterminated := tableUnterminated s.rnt, lntValid := true, st := .done }) ∧
    (s.st = .nameDec → s.seqOp = .getNames →
      engineStep c s = seqNext true { s with
        lnt := decodeTable s.rnt, nameUnterminated := tableUnterminated s.rnt })

/-- The sequencer (R241), entered from RX_DECODE or from NAME_DEC: after a successful first exchange OP_GET_NAMES
decodes the names first, and every device operation then starts the DISCONNECT exchange with the instance's opcode;
after a successful second one it is done, and only OP_GET_NAMES makes LNT_VALID visible then. -/
def Obligations.SequencerStartsTheDisconnect : Prop :=
  (∀ (s : State) (c : StreamChoice), s.st = .rxDecode → s.seqOp ≠ .none →
    engineStep c s = seqNext false s.copyBody.disarm) ∧
  (∀ (s : State) (c : StreamChoice), s.st = .nameDec → s.seqOp = .getNames →
    engineStep c s = seqNext true { s with
      lnt := decodeTable s.rnt, nameUnterminated := tableUnterminated s.rnt }) ∧
  ∀ s : State,
    (s.seqStep = .first → s.seqOp = .getNames → seqNext false s = .next { s with st := .nameDec }) ∧
    (∀ decoded, s.seqStep = .first → (s.seqOp ≠ .getNames ∨ decoded = true) →
      seqNext decoded s = .next { s with
        seqStep := .second, argCmd := s.cfgDisconnect.code, argBody := .none, argExp := .none, st := .txBuild }) ∧
    (∀ decoded, s.seqStep = .second → s.seqOp = .getNames →
      seqNext decoded s = .next { s with lntValid := true, st := .done }) ∧
    (∀ decoded, s.seqStep = .second → s.seqOp ≠ .getNames → seqNext decoded s = .next { s with st := .done })

/-- Fail: the context registers that belong to the failure, its kind and sub-cause, the transport mark, the timer
disarmed, FAILED; everything else keeps its value, except RXBODY after a failed receive [log 8]. That the context registers
of other failures keep theirs is the model's choice, for R266 and against I11 [log 26]. -/
def Obligations.FailRecordsTheCause : Prop :=
  ∀ (s : State) (x y : U16) (e g : U32),
    s.raise .writeFail = { s with
      errKind := .transport, errSub := .writeFail, connUnreliable := true, tmrArmed := false, tmrExpired := false,
      st := .failed } ∧
    State.failedAs s (s.raise .readFail) .transport .readFail ∧
    State.failedAs s (s.raise .timeout) .transport .timeout ∧
    State.failedAs { s with errExpected := x, errActual := y } (s.raise (.sizeMismatch x y)) .protocolShape .sizeMismatch ∧
    State.failedAs { s with errOpcode := x } (s.raise (.unrecognized x)) .protocolShape .unrecognized ∧
    State.failedAs { s with errCsumExp := e, errCsumGot := g } (s.raise (.integrity e g)) .integrity .none ∧
    State.failedAs { s with errOpcode := x } (s.raise (.deviceRejected x)) .deviceRejected .none

/-! ## The registers the host reads -/

/-- The registers the host reads, under their numbers: STATUS is register 14, with BUSY, DONE and FAIL as functions of
ST and ten bits at their places; the host cannot read OP and the operand latches. -/
def Obligations.RegistersStandAtTheirNumbers : Prop :=
  ∀ s : State,
    s.hostRead 14 = some (.bits 10 s.status.toNat) ∧
    (s.status.getLsbD 0 = true ↔ s.st ≠ .idle ∧ s.st ≠ .done ∧ s.st ≠ .failed) ∧
    (s.status.getLsbD 1 = true ↔ s.st = .done) ∧
    (s.status.getLsbD 2 = true ↔ s.st = .failed) ∧
    s.status.getLsbD 3 = s.rntValid ∧
    s.status.getLsbD 4 = s.lntValid ∧
    s.status.getLsbD 5 = s.nameUnterminated ∧
    s.status.getLsbD 6 = s.connUnreliable ∧
    s.status.getLsbD 7 = s.opRefused ∧
    s.status.getLsbD 8 = s.tmrArmed ∧
    s.status.getLsbD 9 = s.tmrExpired ∧
    (∀ n, n < 4 → s.hostRead n = none) ∧
    (∀ q code, (q, code) ∈ [(Phase.idle, 0), (.txBuild, 1), (.txSend, 2), (.rxHdr, 3), (.rxValidate, 4), (.rxBody, 5),
      (.rxVerify, 6), (.rxDecode, 7), (.done, 8), (.failed, 9), (.nameEnc, 10), (.nameDec, 11)] →
      s.st = q → s.hostRead 4 = some (.bits 4 code)) ∧
    (∀ q code, (q, code) ∈ [(SeqOp.none, 0), (.reset, 8), (.getNames, 9), (.setNames, 10)] →
      s.seqOp = q → s.hostRead 5 = some (.bits 4 code)) ∧
    (∀ q code, (q, code) ∈ [(SeqStep.zero, 0), (.first, 1), (.second, 2)] →
      s.seqStep = q → s.hostRead 6 = some (.bits 2 code)) ∧
    (∀ q code, (q, code) ∈ [(ErrKind.none, 0), (.transport, 1), (.protocolShape, 2), (.integrity, 3),
      (.deviceRejected, 4)] → s.errKind = q → s.hostRead 15 = some (.bits 3 code)) ∧
    (∀ q code, (q, code) ∈ [(ErrSub.none, 0), (.writeFail, 1), (.readFail, 2), (.timeout, 3), (.sizeMismatch, 1),
      (.unrecognized, 2)] → s.errSub = q → s.hostRead 16 = some (.bits 2 code)) ∧
    s.hostRead 7 = some (.bits 11 s.txlen.toNat) ∧ s.hostRead 8 = some (.bits 11 s.txcnt.toNat) ∧
    s.hostRead 9 = some (.bits 16 s.rxcnt.toNat) ∧ s.hostRead 10 = some (.bits 16 s.hdrCmd.toNat) ∧
    s.hostRead 11 = some (.bits 16 s.hdrLen.toNat) ∧ s.hostRead 12 = some (.bits 32 s.hdrCsum.toNat) ∧
    s.hostRead 13 = some (.bits 32 s.sum.toNat) ∧ s.hostRead 17 = some (.bits 16 s.errExpected.toNat) ∧
    s.hostRead 18 = some (.bits 16 s.errActual.toNat) ∧ s.hostRead 19 = some (.bits 16 s.errOpcode.toNat) ∧
    s.hostRead 20 = some (.bits 32 s.errCsumExp.toNat) ∧ s.hostRead 21 = some (.bits 32 s.errCsumGot.toNat) ∧
    s.hostRead 22 = some (.bits 16 s.cfgDisconnect.code.toNat) ∧ s.hostRead 23 = some (.bytes (bytesOf s.txbuf)) ∧
    s.hostRead 24 = some (.bytes (bytesOf s.rnt)) ∧ s.hostRead 25 = some (.strings s.lnt)

/-- The values R46 states for reset, in the reset state and after a reset event, which leaves CFG_DISCONNECT as it was. The
event has two forms [log 10]: with a fresh stream, TXS is empty, RXS is what the peer has sent, and the stream is open and
not stalled; with the old stream re-used, TXS and the stream's condition stay, and RXS stays too when the block was at rest
with CONN_UNRELIABLE clear. -/
def Obligations.ResetGivesTheStatedValues : Prop :=
  let stated := fun (s : State) =>
    s.op = .none ∧ s.st = .idle ∧ s.seqOp = .none ∧ s.seqStep = .zero ∧ s.txlen = 0 ∧ s.txcnt = 0 ∧ s.rxcnt = 0 ∧
    s.sum = 0 ∧ s.status = 0 ∧ s.errKind = .none ∧ s.errSub = .none
  (stated State.reset ∧ State.reset.txs = []) ∧
    (∀ (s : State) (already : List Byte) (rest : List Input), s.inputs = .reset (some already) :: rest →
      ∃ t, step s = .next t ∧ stated t ∧ t.cfgDisconnect = s.cfgDisconnect ∧ t.txs = [] ∧ t.rxs = already ∧
        t.closed = false ∧ t.txStalled = false ∧ t.inputs = rest) ∧
    ∀ (s : State) (rest : List Input), s.inputs = .reset none :: rest →
      ∃ t, step s = .next t ∧ stated t ∧ t.cfgDisconnect = s.cfgDisconnect ∧ t.txs = s.txs ∧ t.closed = s.closed ∧
        t.txStalled = s.txStalled ∧ t.inputs = rest ∧
        (s.st.rest = true → s.connUnreliable = false → t.rxs = s.rxs)

/-! ## The whole machine -/

/-- A step changes ST only along the transition graph of R24, but for a reset; in a rest state the engine has no step that
changes anything, and only an operation the host presents moves ST on. -/
def Obligations.PhaseFollowsTheGraph : Prop :=
  (∀ s t : State, step s = .next t → (∀ fresh rest, s.inputs ≠ .reset fresh :: rest) →
    t.st = s.st ∨ s.st.edge t.st = true) ∧
  (∀ (s : State) (c : StreamChoice), s.st = .idle ∨ s.st = .done ∨ s.st = .failed → engineStep c s = .next s) ∧
  ∀ s t : State, s.st = .idle ∨ s.st = .done ∨ s.st = .failed → step s = .next t →
    (∀ fresh rest, s.inputs ≠ .reset fresh :: rest) → t.st ≠ s.st → ∃ p rest, s.inputs = .host p :: rest

/-- The invariant holds after reset. -/
def Obligations.ResetMeetsTheInvariant : Prop :=
  State.reset.Inv

/-- Every step keeps the invariant. -/
def Obligations.StepKeepsTheInvariant : Prop :=
  ∀ s t : State, s.Inv → step s = .next t → t.Inv

/-- From a state that meets the invariant every step goes on: no fault, no refusal, whatever the inputs are: the model's
two faults [log 14] belong to states no run reaches. -/
def Obligations.StepNeverStops : Prop :=
  ∀ s : State, s.Inv → ∃ t, step s = .next t

/-- CONN_UNRELIABLE and OP_REFUSED are cleared only by reset; RNT_VALID too; CFG_DISCONNECT never changes. -/
def Obligations.StickyFlagsSurvive : Prop :=
  ∀ s t : State, step s = .next t →
    t.cfgDisconnect = s.cfgDisconnect ∧
    ((∀ fresh rest, s.inputs ≠ .reset fresh :: rest) →
      (s.connUnreliable = true → t.connUnreliable = true) ∧
      (s.opRefused = true → t.opRefused = true) ∧
      (s.rntValid = true → t.rntValid = true))

/-- TXS grows only in TX_SEND, by the one byte `TXBUF[TXCNT]`, and RXS loses its head only in RX_HDR and RX_BODY: no
byte is pushed or taken anywhere else, and none of the two in one step. One exception, the model's form of R316 [log 9]:
when a receive part begins with CONN_UNRELIABLE set, RXS may become anything, for nothing is promised about it then. -/
def Obligations.StreamsMoveOneByteInTheirPhases : Prop :=
  ∀ s t : State, step s = .next t → (∀ fresh rest, s.inputs ≠ .reset fresh :: rest) →
    (t.txs = s.txs ∨
      (s.st = .txSend ∧ t.rxs = s.rxs ∧ ∃ b, (bytesOf s.txbuf)[s.txcnt.toNat]? = some b ∧ t.txs = s.txs ++ [b])) ∧
    (t.rxs = s.rxs ∨
      (∃ bs rest, s.inputs = .peer bs :: rest ∧ t.rxs = s.rxs ++ bs) ∨
      (s.connUnreliable = true ∧ t.st = .rxHdr ∧ t.tmrArmed = true ∧ s.st ≠ .rxHdr) ∨
      ((s.st = .rxHdr ∨ s.st = .rxBody) ∧ s.tmrExpired = false ∧ t.txs = s.txs ∧ t.rxs = s.rxs.tail))

/-- RNT is written only by NAME_ENC, with the encoding of LNT, and by RX_DECODE, with a body whose length is the
expected 1536 and whose checksum is right: an unverified body never reaches it. -/
def Obligations.RntHoldsOnlyVerifiedBodies : Prop :=
  ∀ s t : State, s.Inv → step s = .next t → (∀ fresh rest, s.inputs ≠ .reset fresh :: rest) →
    t.rnt = s.rnt ∨
    (s.st = .nameEnc ∧ t.rnt = encodeTable s.lnt ∧ t.rntValid = true) ∨
    (s.st = .rxDecode ∧ s.argExp = .rnt ∧ t.rnt = s.rxbody ∧ t.rntValid = true ∧
      s.hdrCmd = 0x0006#16 ∧ s.hdrLen = 1536#16 ∧
      (verify (bytesOf s.rxhdr) (bytesOf s.rxbody)).ok = true)

/-- The operand latches and OP do not change while the block is busy, except by the sequencer at the end of an exchange
or of the name decode, and then to the DISCONNECT operands. -/
def Obligations.LatchesHoldWhileBusy : Prop :=
  ∀ s t : State, step s = .next t → (∀ fresh rest, s.inputs ≠ .reset fresh :: rest) → s.st.rest = false →
    t.op = s.op ∧ t.seqOp = s.seqOp ∧
    ((t.argCmd = s.argCmd ∧ t.argBody = s.argBody ∧ t.argExp = s.argExp) ∨
      ((s.st = .rxDecode ∨ s.st = .nameDec) ∧ s.seqOp ≠ .none ∧ s.seqStep = .first ∧
        t.seqStep = .second ∧ t.argCmd = s.cfgDisconnect.code ∧ t.argBody = .none ∧ t.argExp = .none))

/-! ## Whole operations on an undisturbed stream

No input is pending but the operation, so the engine has every turn; and TX_PROGRESS holds, so the stream is ready at each
of them [log 4] [log 25]. -/

/-- SEND: presented in a rest state, it puts the whole constructed frame on the stream, contiguous and in order, takes
nothing, does not arm the deadline, and ends in DONE. The premise is TX_PROGRESS [log 4] [log 25]: under it, whatever the
inputs are, any operation that is in TX_SEND leaves it; without it, on an open stream that stays stalled, an operation with
bytes to push stays in TX_SEND for ever, BUSY and nothing pushed, and so does a SEND presented there. -/
def Obligations.SendPushesTheWholeFrame : Prop :=
  (∀ (s : State) (cmd : U16) (body : Shape) (p : Port),
    s.undisturbed → s.st.rest = true → (body = .rnt → s.rntValid = true) → encode (.send cmd body) = .port p →
    let frame := construct cmd (if body = .rnt then bytesOf s.rnt else [])
    ∃ t, Host.Core.run core (frame.length + 3) { s with inputs := [.host p] } = .next t ∧
      t.st = .done ∧ t.op = .send ∧ t.txs = s.txs ++ frame ∧ t.rxs = s.rxs ∧
      t.txlen.toNat = frame.length ∧ t.txcnt = t.txlen ∧ t.errKind = .none ∧
      t.tmrArmed = s.tmrArmed ∧ t.rnt = s.rnt ∧ t.lnt = s.lnt ∧ t.hdrCmd = s.hdrCmd) ∧
  (∀ s : State, s.Inv → s.st = .txSend → s.txProgress →
    ∃ n t, Host.Core.run core n s = .next t ∧ t.st ≠ .txSend) ∧
  (∀ s : State, s.Inv → s.st = .txSend → s.txcnt < s.txlen → s.inputs = [] → ¬ s.txProgress →
    s.busy = true ∧ ∀ n, Host.Core.run core n s = .next s) ∧
  (∀ (s : State) (cmd : U16) (body : Shape) (p : Port) (n : Nat),
    s.undisturbed → s.st.rest = true → (body = .rnt → s.rntValid = true) → encode (.send cmd body) = .port p →
    ∃ t, Host.Core.run core (2 + n) { s with inputs := [.host p], txStalled := true } = .next t ∧
      t.st = .txSend ∧ t.busy = true ∧ t.op = .send ∧ t.txs = s.txs ∧ t.errKind = .none)

/-- SEND_RECEIVE against a peer that answers with a well-formed ACK of the expected size: the request is pushed whole,
exactly the response is taken, and a table is left in RNT. -/
def Obligations.SendReceiveCompletesOnAnAck : Prop :=
  ∀ (s : State) (cmd : U16) (body exp : Shape) (p : Port) (answer later : List Byte),
    s.undisturbed → s.st.rest = true → (body = .rnt → s.rntValid = true) →
    encode (.sendReceive cmd body exp) = .port p →
    answer.length = (if exp = .rnt then 1536 else 0) →
    s.rxs = construct Config.opAck answer ++ later →
    let frame := construct cmd (if body = .rnt then bytesOf s.rnt else [])
    ∃ t, Host.Core.run core (frame.length + answer.length + 16) { s with inputs := [.host p] } = .next t ∧
      t.st = .done ∧ t.op = .sendReceive ∧ t.txs = s.txs ++ frame ∧ t.rxs = later ∧ t.errKind = .none ∧
      t.hdrCmd = Config.opAck ∧ t.hdrLen.toNat = answer.length ∧
      t.sum = sum8 ((construct Config.opAck answer).take 4 ++ answer) ∧
      t.tmrArmed = false ∧ t.tmrExpired = false ∧ t.lnt = s.lnt ∧
      (exp = .rnt → bytesOf t.rnt = answer ∧ t.rntValid = true) ∧
      (exp = .none → t.rnt = s.rnt ∧ t.rntValid = s.rntValid)

/-- OP_RESET acknowledged twice: the RESET_UNIT frame and then the DISCONNECT frame of the instance are pushed, 16 bytes
are taken, and the operation is done. -/
def Obligations.OpResetSendsResetThenDisconnect : Prop :=
  ∀ (s : State) (p : Port) (later : List Byte),
    s.undisturbed → s.st.rest = true → encode .opReset = .port p →
    s.rxs = construct Config.opAck [] ++ construct Config.opAck [] ++ later →
    ∃ t, Host.Core.run core 47 { s with inputs := [.host p] } = .next t ∧
      t.st = .done ∧ t.op = .opReset ∧ t.seqOp = .reset ∧ t.seqStep = .second ∧ t.errKind = .none ∧
      t.txs = s.txs ++ construct Config.opResetUnit [] ++ construct s.cfgDisconnect.code [] ∧ t.rxs = later ∧
      t.argCmd = s.cfgDisconnect.code ∧ t.sum = 6 ∧ t.tmrArmed = false ∧ t.rnt = s.rnt ∧ t.lnt = s.lnt

/-- OP_GET_NAMES against a peer that returns a table: the table lands in RNT, its decoding in LNT, the DISCONNECT
exchange follows, and at the end LNT_VALID is set. -/
def Obligations.OpGetNamesReturnsTheDecodedTable : Prop :=
  ∀ (s : State) (p : Port) (r : Buf Config.rntSize) (later : List Byte),
    s.undisturbed → s.st.rest = true → encode .opGetNames = .port p →
    s.rxs = construct Config.opAck (bytesOf r) ++ construct Config.opAck [] ++ later →
    ∃ t, Host.Core.run core 1584 { s with inputs := [.host p] } = .next t ∧
      t.st = .done ∧ t.op = .opGetNames ∧ t.seqStep = .second ∧ t.errKind = .none ∧
      t.txs = s.txs ++ construct Config.opGetChannelNames [] ++ construct s.cfgDisconnect.code [] ∧ t.rxs = later ∧
      t.rnt = r ∧ t.rntValid = true ∧ t.lnt = decodeTable r ∧ t.lntValid = true ∧
      t.nameUnterminated = tableUnterminated r

/-- OP_SET_NAMES(T) acknowledged twice: the SET_CHANNEL_NAMES frame with the encoded table and then the DISCONNECT frame
are pushed; LNT keeps the host's table. -/
def Obligations.OpSetNamesSendsTheEncodedTable : Prop :=
  ∀ (s : State) (p : Port) (names : NameTable) (later : List Byte),
    s.undisturbed → s.st.rest = true → encode (.opSetNames names) = .port p →
    s.rxs = construct Config.opAck [] ++ construct Config.opAck [] ++ later →
    ∃ t, Host.Core.run core 1584 { s with inputs := [.host p] } = .next t ∧
      t.st = .done ∧ t.op = .opSetNames ∧ t.seqStep = .second ∧ t.errKind = .none ∧
      t.txs = s.txs ++ construct Config.opSetChannelNames (bytesOf (encodeTable names)) ++
        construct s.cfgDisconnect.code [] ∧
      t.rxs = later ∧ t.rnt = encodeTable names ∧ t.lnt = names ∧ t.lntValid = true

/-- A device operation whose first exchange is answered by a NAK, of any length and checksum, fails with SEQ_STEP 1,
takes the 8 header bytes only, and sends no DISCONNECT, however long the engine goes on: OP_RESET and OP_GET_NAMES, which
leave RNT alone, and OP_SET_NAMES, which has pushed its table and leaves it encoded in RNT. -/
def Obligations.RejectedFirstExchangeSendsNoDisconnect : Prop :=
  (∀ (s : State) (i : Instr) (p : Port) (len : U16) (csum : U32) (later : List Byte) (n : Nat),
    s.undisturbed → s.st.rest = true → (i = .opReset ∨ i = .opGetNames) → encode i = .port p →
    s.rxs = headerBytes 0x0015#16 len csum ++ later →
    ∃ t, Host.Core.run core (21 + n) { s with inputs := [.host p] } = .next t ∧
      t.st = .failed ∧ t.seqStep = .first ∧ t.errKind = .deviceRejected ∧ t.errSub = .none ∧ t.errOpcode = 0x0015#16 ∧
      t.txs = s.txs ++ construct (if i = .opReset then Config.opResetUnit else Config.opGetChannelNames) [] ∧
      t.rxs = later ∧ t.connUnreliable = false ∧ t.rnt = s.rnt ∧ t.rntValid = s.rntValid) ∧
  (∀ (s : State) (names : NameTable) (p : Port) (len : U16) (csum : U32) (later : List Byte) (n : Nat),
    s.undisturbed → s.st.rest = true → encode (.opSetNames names) = .port p →
    s.rxs = headerBytes 0x0015#16 len csum ++ later →
    ∃ t, Host.Core.run core (1558 + n) { s with inputs := [.host p] } = .next t ∧
      t.st = .failed ∧ t.seqStep = .first ∧ t.errKind = .deviceRejected ∧ t.errSub = .none ∧ t.errOpcode = 0x0015#16 ∧
      t.txs = s.txs ++ construct Config.opSetChannelNames (bytesOf (encodeTable names)) ∧
      t.rxs = later ∧ t.connUnreliable = false ∧ t.rnt = encodeTable names ∧ t.rntValid = true ∧
      t.lnt = names ∧ t.lntValid = true)
end

