-- ==== Sys2Proof/Laws/Bytes.lean ====
section
/-! SUPPORT. Byte order, buffers and byte sums: what every codec proof cites. -/

namespace Sys2Proof

theorem le16_extract (v : U16) : le16 (v.extractLsb' 0 8) (v.extractLsb' 8 8) = v := by
  apply BitVec.eq_of_toNat_eq
  simp only [le16, BitVec.toNat_ofNat, BitVec.extractLsb'_toNat, Nat.shiftRight_eq_div_pow]
  have := v.isLt
  omega

theorem le32_extract (v : U32) :
    le32 (v.extractLsb' 0 8) (v.extractLsb' 8 8) (v.extractLsb' 16 8) (v.extractLsb' 24 8) = v := by
  apply BitVec.eq_of_toNat_eq
  simp only [le32, BitVec.toNat_ofNat, BitVec.extractLsb'_toNat, Nat.shiftRight_eq_div_pow]
  have := v.isLt
  omega

theorem bytes16_le16 (a b : Byte) : bytes16 (le16 a b) = [a, b] := by
  simp only [bytes16, List.cons.injEq, and_true]
  constructor <;> apply BitVec.eq_of_toNat_eq <;>
    simp only [le16, BitVec.toNat_ofNat, BitVec.extractLsb'_toNat, Nat.shiftRight_eq_div_pow] <;>
    have := a.isLt <;> have := b.isLt <;> omega

theorem bytes32_le32 (a b c d : Byte) : bytes32 (le32 a b c d) = [a, b, c, d] := by
  simp only [bytes32, List.cons.injEq, and_true]
  refine ⟨?_, ?_, ?_, ?_⟩ <;> apply BitVec.eq_of_toNat_eq <;>
    simp only [le32, BitVec.toNat_ofNat, BitVec.extractLsb'_toNat, Nat.shiftRight_eq_div_pow] <;>
    have := a.isLt <;> have := b.isLt <;> have := c.isLt <;> have := d.isLt <;> omega

@[simp] theorem length_bytes16 (v : U16) : (bytes16 v).length = 2 := rfl
@[simp] theorem length_bytes32 (v : U32) : (bytes32 v).length = 4 := rfl
@[simp] theorem length_headerBytes (c l : U16) (k : U32) : (headerBytes c l k).length = 8 := rfl

/-- The fields a sequence that begins with a header holds. -/
theorem memRead_headerBytes (c l : U16) (k : U32) (rest : List Byte) :
    memRead16 (headerBytes c l k ++ rest) 0 = c ∧ memRead16 (headerBytes c l k ++ rest) 2 = l ∧
      memRead32 (headerBytes c l k ++ rest) 4 = k :=
  ⟨le16_extract c, le16_extract l, le32_extract k⟩

/-- A sequence of 8 bytes is the header of the fields read from it. -/
theorem headerBytes_memRead (h : List Byte) (hl : h.length = 8) :
    headerBytes (memRead16 h 0) (memRead16 h 2) (memRead32 h 4) = h := by
  match h, hl with
  | [a, b, c, d, e, f, g, i], _ =>
    simp [headerBytes, memRead16, memRead32, byteAt, bytes16_le16, bytes32_le32]

theorem memRead16_take (bs : List Byte) (n off : Nat) (h : off + 2 ≤ n) :
    memRead16 (bs.take n) off = memRead16 bs off := by
  simp [memRead16, byteAt, List.getD_eq_getElem?_getD, show off < n by omega,
    show off + 1 < n by omega]

theorem memRead32_take (bs : List Byte) (n off : Nat) (h : off + 4 ≤ n) :
    memRead32 (bs.take n) off = memRead32 bs off := by
  simp [memRead32, byteAt, List.getD_eq_getElem?_getD, show off < n by omega,
    show off + 1 < n by omega, show off + 2 < n by omega, show off + 3 < n by omega]

/-- Decoding a sequence that begins with a header looks at the header's three fields. -/
theorem decodeHeader_headerBytes (c l : U16) (k : U32) (rest : List Byte) :
    decodeHeader (headerBytes c l k ++ rest) = decodeFields c l k := by
  obtain ⟨h0, h2, h4⟩ := memRead_headerBytes c l k rest
  simp [decodeHeader, h0, h2, h4]

theorem shapeOfCode_code (x : Shape) : shapeOfCode x.code = x := by
  cases x <;> rfl

end Sys2Proof

namespace Sys2Proof.Machine

@[simp] theorem length_bytesOf {n : Nat} (b : Buf n) : (bytesOf b).length = n := by
  simp [bytesOf]

@[simp] theorem bytesOf_bufOf (n : Nat) (bs : List Byte) :
    bytesOf (bufOf n bs) = (bs ++ List.replicate n 0).take n := rfl

theorem bytesOf_bufOf_of_length {n : Nat} {bs : List Byte} (h : bs.length = n) : bytesOf (bufOf n bs) = bs := by
  simp [← h]

theorem buf_ext {n : Nat} {a b : Buf n} (h : bytesOf a = bytesOf b) : a = b := by
  exact Vector.toList_inj.mp h

theorem bytesOf_setIfInBounds {n : Nat} (b : Buf n) (i : Nat) (x : Byte) :
    bytesOf (b.setIfInBounds i x) = (bytesOf b).set i x := by
  simp [bytesOf]

/-! ## Byte sums -/

@[simp] theorem byteTotal_nil : byteTotal [] = 0 := rfl
@[simp] theorem byteTotal_cons (b : Byte) (bs : List Byte) : byteTotal (b :: bs) = b.toNat + byteTotal bs := rfl

theorem byteTotal_append (a b : List Byte) : byteTotal (a ++ b) = byteTotal a + byteTotal b := by
  induction a with
  | nil => simp
  | cons x xs ih => simp [ih]; omega

theorem byteTotal_le (bs : List Byte) : byteTotal bs ≤ 255 * bs.length := by
  induction bs with
  | nil => simp
  | cons x xs ih => have := x.isLt; simp; omega

theorem byteTotal_eq_sum (bs : List Byte) : byteTotal bs = (bs.map BitVec.toNat).sum := by
  induction bs with
  | nil => rfl
  | cons x xs ih => simp [ih]

/-- Setting a byte moves the total by the difference of the two bytes. -/
theorem byteTotal_set (bs : List Byte) (i : Nat) (b : Byte) (h : i < bs.length) :
    byteTotal (bs.set i b) + bs[i].toNat = byteTotal bs + b.toNat := by
  induction bs generalizing i with
  | nil => simp at h
  | cons x xs ih =>
    cases i with
    | zero => simp; omega
    | succ j => simp at h; have := ih j h; simp; omega

@[simp] theorem toNat_sum8 (bs : List Byte) : (sum8 bs).toNat = byteTotal bs % 2 ^ 32 := by
  simp [sum8]

theorem toNat_neg32 (a : U32) : (neg32 a).toNat = (2 ^ 32 - a.toNat) % 2 ^ 32 := by
  simp [neg32]

theorem neg32_eq_neg (a : U32) : neg32 a = -a := by
  apply BitVec.eq_of_toNat_eq
  simp [neg32, BitVec.toNat_neg]

/-! ## Frames -/

/-- CONSTRUCT is a header and the body. -/
theorem construct_eq (cmd : U16) (body : List Byte) :
    construct cmd body = headerBytes cmd (BitVec.ofNat 16 body.length)
      (neg32 (sum8 (bytes16 cmd ++ bytes16 (BitVec.ofNat 16 body.length) ++ body))) ++ body := by
  have : sum8 (bytes16 cmd ++ bytes16 (BitVec.ofNat 16 body.length) ++ [0, 0, 0, 0] ++ body) =
      sum8 (bytes16 cmd ++ bytes16 (BitVec.ofNat 16 body.length) ++ body) := by
    simp [sum8, byteTotal_append]
  simp only [construct, this]
  rfl

@[simp] theorem length_construct (cmd : U16) (body : List Byte) :
    (construct cmd body).length = body.length + 8 := by
  rw [construct_eq]; simp; omega

theorem parseHeader_headerBytes (c l : U16) (k : U32) (rest : List Byte) :
    parseHeader (headerBytes c l k ++ rest) = ⟨c, l, k⟩ := by
  obtain ⟨h0, h2, h4⟩ := memRead_headerBytes c l k rest
  simp [parseHeader, h0, h2, h4]

/-- The verdict of VERIFY, by the two forms of the checksum. -/
theorem verify_ok_iff (h body : List Byte) :
    (verify h body).ok = true ↔ memRead32 h 4 = neg32 (sum8 (h.take 4 ++ body)) := by
  simp only [verify, decide_eq_true_eq, neg32_eq_neg]
  constructor
  · intro e; exact eq_neg_of_add_eq_zero_right e
  · intro e; rw [e]; simp

end Sys2Proof.Machine
end

