-- ==== Sys2Proof/Laws/Names.lean ====
section
/-! SUPPORT. The Channel Name Codec, record by record: lengths, bytes at an index, and what decoding looks at. -/

namespace Sys2Proof.Machine

@[simp] theorem length_encodeLine (s : Line) : (encodeLine s).length = 12 := by
  simp [encodeLine]; omega

/-- Every byte of an encoded record. -/
theorem getElem?_encodeLine (s : Line) (i : Nat) (h : i < 12) :
    (encodeLine s)[i]? = if i < min s.length 8 then s[i]? else some 0 := by
  simp only [encodeLine, Config.lineContent, Config.recSize]
  by_cases hi : i < min s.length 8
  · rw [List.getElem?_append_left (by simp; omega)]
    simp [hi, List.getElem?_take]; omega
  · rw [List.getElem?_append_right (by simp; omega)]
    simp [hi, List.getElem?_replicate]; omega

@[simp] theorem length_encodeChannel (c : ChannelName) : (encodeChannel c).length = 24 := by
  simp [encodeChannel]

theorem length_flatMap_encodeChannel (l : List ChannelName) : (l.flatMap encodeChannel).length = 24 * l.length := by
  induction l with
  | nil => rfl
  | cons x xs ih => simp [List.flatMap_cons, ih]; omega

/-- The records of channel `k` stand `24·k` bytes into the encoded channels. -/
theorem drop_flatMap_encodeChannel (l : List ChannelName) (k : Nat) (h : k < l.length) :
    (l.flatMap encodeChannel).drop (24 * k) = encodeChannel l[k] ++ (l.drop (k + 1)).flatMap encodeChannel := by
  induction l generalizing k with
  | nil => simp at h
  | cons x xs ih =>
    cases k with
    | zero => simp [List.flatMap_cons]
    | succ k =>
      simp only [List.flatMap_cons]
      rw [show 24 * (k + 1) = (encodeChannel x).length + 24 * k by rw [length_encodeChannel]; omega, List.drop_append]
      simp at h
      simp [ih k h]

theorem bytesOf_encodeTable (t : NameTable) : bytesOf (encodeTable t) = t.toList.flatMap encodeChannel := by
  apply bytesOf_bufOf_of_length
  rw [length_flatMap_encodeChannel]; simp

theorem getElem_decodeTable (r : Buf Config.rntSize) (ch : Fin 64) :
    (decodeTable r)[ch] = decodeChannel (bytesOf r) ch.val := by
  simp [decodeTable]

/-- A sequence with its first zero at `k` is cut there. -/
theorem takeWhile_nonzero_eq_take (l : List Byte) (k : Nat) (hk : l[k]? = some 0) (h : ∀ i, i < k → l[i]? ≠ some 0) :
    l.takeWhile (fun b => b != 0#8) = l.take k := by
  induction l generalizing k with
  | nil => simp at hk
  | cons x xs ih =>
    cases k with
    | zero => simp at hk; simp [hk]
    | succ k =>
      have h0 := h 0 (by omega)
      simp at h0
      simp [h0]
      exact ih k (by simpa using hk) (fun i hi => by simpa using h (i + 1) (by omega))

/-- A sequence without a zero is not cut. -/
theorem takeWhile_nonzero_eq_self (l : List Byte) (h : (0 : Byte) ∉ l) : l.takeWhile (fun b => b != 0#8) = l := by
  rw [List.takeWhile_eq_self_iff]
  intro x hx
  simp only [bne_iff_ne, ne_eq]
  rintro rfl
  exact h hx

/-- Zeros added at the end do not change the cut. -/
theorem takeWhile_nonzero_append_zeros (l : List Byte) (n : Nat) :
    (l ++ List.replicate n (0#8)).takeWhile (fun b => b != 0#8) = l.takeWhile (fun b => b != 0#8) := by
  induction l with
  | nil => cases n <;> simp [List.replicate_succ]
  | cons x xs ih => by_cases hx : x = 0#8 <;> simp [hx, ih]

/-- What decoding a line looks at: its field, the first 9 bytes. -/
theorem decodeLine_congr (r r' : List Byte) (h : r'.take 9 = r.take 9) :
    decodeLine r' = decodeLine r ∧ lineUnterminated r' = lineUnterminated r := by
  have h8 : r'.take 8 = r.take 8 := by
    have := congrArg (List.take 8) h
    simpa [List.take_take] using this
  have hb : byteAt r' 8 = byteAt r 8 := by
    have := congrArg (fun l => l.getD 8 0) h
    simpa [byteAt, List.getD_eq_getElem?_getD, List.getElem?_take] using this
  have hd : decodeLine r' = decodeLine r := by simp only [decodeLine, Config.lineContent, h8]
  exact ⟨hd, by simp only [lineUnterminated, Config.lineContent, hd, hb]⟩

/-- A record just encoded decodes to the string up to its first zero within 8 bytes, and is terminated. -/
theorem decodeLine_encodeLine (s : Line) :
    decodeLine (encodeLine s) = (s.take 8).takeWhile (fun b => b != 0#8) ∧ lineUnterminated (encodeLine s) = false := by
  constructor
  · rw [decodeLine]
    simp only [encodeLine, Config.lineContent]
    rw [List.take_append]
    simp only [List.take_take, List.take_replicate]
    exact takeWhile_nonzero_append_zeros _ _
  · have : byteAt (encodeLine s) 8 = 0 := by
      rw [byteAt, List.getD_eq_getElem?_getD, getElem?_encodeLine _ _ (by omega), if_neg (by omega)]; rfl
    simp [lineUnterminated, Config.lineContent, this]

end Sys2Proof.Machine
end

