-- ==== Sys2Proof/Laws/State.lean ====
section
/-! SUPPORT. One lemma per field per named update of the state, so that no proof unfolds an update. -/

namespace Sys2Proof.Machine

/-! ## State.refuse -/

@[simp] theorem State.refuse_op (s : State) (w : RefuseReason) : (s.refuse w).op = s.op := rfl
@[simp] theorem State.refuse_argCmd (s : State) (w : RefuseReason) : (s.refuse w).argCmd = s.argCmd := rfl
@[simp] theorem State.refuse_argBody (s : State) (w : RefuseReason) : (s.refuse w).argBody = s.argBody := rfl
@[simp] theorem State.refuse_argExp (s : State) (w : RefuseReason) : (s.refuse w).argExp = s.argExp := rfl
@[simp] theorem State.refuse_st (s : State) (w : RefuseReason) : (s.refuse w).st = s.st := rfl
@[simp] theorem State.refuse_seqOp (s : State) (w : RefuseReason) : (s.refuse w).seqOp = s.seqOp := rfl
@[simp] theorem State.refuse_seqStep (s : State) (w : RefuseReason) : (s.refuse w).seqStep = s.seqStep := rfl
@[simp] theorem State.refuse_txlen (s : State) (w : RefuseReason) : (s.refuse w).txlen = s.txlen := rfl
@[simp] theorem State.refuse_txcnt (s : State) (w : RefuseReason) : (s.refuse w).txcnt = s.txcnt := rfl
@[simp] theorem State.refuse_rxcnt (s : State) (w : RefuseReason) : (s.refuse w).rxcnt = s.rxcnt := rfl
@[simp] theorem State.refuse_hdrCmd (s : State) (w : RefuseReason) : (s.refuse w).hdrCmd = s.hdrCmd := rfl
@[simp] theorem State.refuse_hdrLen (s : State) (w : RefuseReason) : (s.refuse w).hdrLen = s.hdrLen := rfl
@[simp] theorem State.refuse_hdrCsum (s : State) (w : RefuseReason) : (s.refuse w).hdrCsum = s.hdrCsum := rfl
@[simp] theorem State.refuse_sum (s : State) (w : RefuseReason) : (s.refuse w).sum = s.sum := rfl
@[simp] theorem State.refuse_rntValid (s : State) (w : RefuseReason) : (s.refuse w).rntValid = s.rntValid := rfl
@[simp] theorem State.refuse_lntValid (s : State) (w : RefuseReason) : (s.refuse w).lntValid = s.lntValid := rfl
@[simp] theorem State.refuse_nameUnterminated (s : State) (w : RefuseReason) : (s.refuse w).nameUnterminated = s.nameUnterminated := rfl
@[simp] theorem State.refuse_connUnreliable (s : State) (w : RefuseReason) : (s.refuse w).connUnreliable = s.connUnreliable := rfl
@[simp] theorem State.refuse_opRefused (s : State) (w : RefuseReason) : (s.refuse w).opRefused = true := rfl
@[simp] theorem State.refuse_tmrArmed (s : State) (w : RefuseReason) : (s.refuse w).tmrArmed = s.tmrArmed := rfl
@[simp] theorem State.refuse_tmrExpired (s : State) (w : RefuseReason) : (s.refuse w).tmrExpired = s.tmrExpired := rfl
@[simp] theorem State.refuse_errKind (s : State) (w : RefuseReason) : (s.refuse w).errKind = s.errKind := rfl
@[simp] theorem State.refuse_errSub (s : State) (w : RefuseReason) : (s.refuse w).errSub = s.errSub := rfl
@[simp] theorem State.refuse_errExpected (s : State) (w : RefuseReason) : (s.refuse w).errExpected = s.errExpected := rfl
@[simp] theorem State.refuse_errActual (s : State) (w : RefuseReason) : (s.refuse w).errActual = s.errActual := rfl
@[simp] theorem State.refuse_errOpcode (s : State) (w : RefuseReason) : (s.refuse w).errOpcode = s.errOpcode := rfl
@[simp] theorem State.refuse_errCsumExp (s : State) (w : RefuseReason) : (s.refuse w).errCsumExp = s.errCsumExp := rfl
@[simp] theorem State.refuse_errCsumGot (s : State) (w : RefuseReason) : (s.refuse w).errCsumGot = s.errCsumGot := rfl
@[simp] theorem State.refuse_cfgDisconnect (s : State) (w : RefuseReason) : (s.refuse w).cfgDisconnect = s.cfgDisconnect := rfl
@[simp] theorem State.refuse_txbuf (s : State) (w : RefuseReason) : (s.refuse w).txbuf = s.txbuf := rfl
@[simp] theorem State.refuse_rxhdr (s : State) (w : RefuseReason) : (s.refuse w).rxhdr = s.rxhdr := rfl
@[simp] theorem State.refuse_rxbody (s : State) (w : RefuseReason) : (s.refuse w).rxbody = s.rxbody := rfl
@[simp] theorem State.refuse_rnt (s : State) (w : RefuseReason) : (s.refuse w).rnt = s.rnt := rfl
@[simp] theorem State.refuse_lnt (s : State) (w : RefuseReason) : (s.refuse w).lnt = s.lnt := rfl
@[simp] theorem State.refuse_txs (s : State) (w : RefuseReason) : (s.refuse w).txs = s.txs := rfl
@[simp] theorem State.refuse_rxs (s : State) (w : RefuseReason) : (s.refuse w).rxs = s.rxs := rfl
@[simp] theorem State.refuse_closed (s : State) (w : RefuseReason) : (s.refuse w).closed = s.closed := rfl
@[simp] theorem State.refuse_txStalled (s : State) (w : RefuseReason) : (s.refuse w).txStalled = s.txStalled := rfl
@[simp] theorem State.refuse_inputs (s : State) (w : RefuseReason) : (s.refuse w).inputs = s.inputs := rfl
@[simp] theorem State.refuse_freeCtr (s : State) (w : RefuseReason) : (s.refuse w).freeCtr = s.freeCtr := rfl

/-! ## State.accept -/

@[simp] theorem State.accept_op (s : State) (o : OpSel) : (s.accept o).op = o := rfl
@[simp] theorem State.accept_argCmd (s : State) (o : OpSel) : (s.accept o).argCmd = s.argCmd := rfl
@[simp] theorem State.accept_argBody (s : State) (o : OpSel) : (s.accept o).argBody = s.argBody := rfl
@[simp] theorem State.accept_argExp (s : State) (o : OpSel) : (s.accept o).argExp = s.argExp := rfl
@[simp] theorem State.accept_st (s : State) (o : OpSel) : (s.accept o).st = s.st := rfl
@[simp] theorem State.accept_seqOp (s : State) (o : OpSel) : (s.accept o).seqOp = o.seqOp := rfl
@[simp] theorem State.accept_seqStep (s : State) (o : OpSel) : (s.accept o).seqStep = o.seqStep := rfl
@[simp] theorem State.accept_txlen (s : State) (o : OpSel) : (s.accept o).txlen = s.txlen := rfl
@[simp] theorem State.accept_txcnt (s : State) (o : OpSel) : (s.accept o).txcnt = s.txcnt := rfl
@[simp] theorem State.accept_rxcnt (s : State) (o : OpSel) : (s.accept o).rxcnt = s.rxcnt := rfl
@[simp] theorem State.accept_hdrCmd (s : State) (o : OpSel) : (s.accept o).hdrCmd = s.hdrCmd := rfl
@[simp] theorem State.accept_hdrLen (s : State) (o : OpSel) : (s.accept o).hdrLen = s.hdrLen := rfl
@[simp] theorem State.accept_hdrCsum (s : State) (o : OpSel) : (s.accept o).hdrCsum = s.hdrCsum := rfl
@[simp] theorem State.accept_sum (s : State) (o : OpSel) : (s.accept o).sum = s.sum := rfl
@[simp] theorem State.accept_rntValid (s : State) (o : OpSel) : (s.accept o).rntValid = s.rntValid := rfl
@[simp] theorem State.accept_lntValid (s : State) (o : OpSel) : (s.accept o).lntValid = s.lntValid := rfl
@[simp] theorem State.accept_nameUnterminated (s : State) (o : OpSel) : (s.accept o).nameUnterminated = s.nameUnterminated := rfl
@[simp] theorem State.accept_connUnreliable (s : State) (o : OpSel) : (s.accept o).connUnreliable = s.connUnreliable := rfl
@[simp] theorem State.accept_opRefused (s : State) (o : OpSel) : (s.accept o).opRefused = s.opRefused := rfl
@[simp] theorem State.accept_tmrArmed (s : State) (o : OpSel) : (s.accept o).tmrArmed = s.tmrArmed := rfl
@[simp] theorem State.accept_tmrExpired (s : State) (o : OpSel) : (s.accept o).tmrExpired = s.tmrExpired := rfl
@[simp] theorem State.accept_errKind (s : State) (o : OpSel) : (s.accept o).errKind = .none := rfl
@[simp] theorem State.accept_errSub (s : State) (o : OpSel) : (s.accept o).errSub = .none := rfl
@[simp] theorem State.accept_errExpected (s : State) (o : OpSel) : (s.accept o).errExpected = s.errExpected := rfl
@[simp] theorem State.accept_errActual (s : State) (o : OpSel) : (s.accept o).errActual = s.errActual := rfl
@[simp] theorem State.accept_errOpcode (s : State) (o : OpSel) : (s.accept o).errOpcode = s.errOpcode := rfl
@[simp] theorem State.accept_errCsumExp (s : State) (o : OpSel) : (s.accept o).errCsumExp = s.errCsumExp := rfl
@[simp] theorem State.accept_errCsumGot (s : State) (o : OpSel) : (s.accept o).errCsumGot = s.errCsumGot := rfl
@[simp] theorem State.accept_cfgDisconnect (s : State) (o : OpSel) : (s.accept o).cfgDisconnect = s.cfgDisconnect := rfl
@[simp] theorem State.accept_txbuf (s : State) (o : OpSel) : (s.accept o).txbuf = s.txbuf := rfl
@[simp] theorem State.accept_rxhdr (s : State) (o : OpSel) : (s.accept o).rxhdr = s.rxhdr := rfl
@[simp] theorem State.accept_rxbody (s : State) (o : OpSel) : (s.accept o).rxbody = s.rxbody := rfl
@[simp] theorem State.accept_rnt (s : State) (o : OpSel) : (s.accept o).rnt = s.rnt := rfl
@[simp] theorem State.accept_lnt (s : State) (o : OpSel) : (s.accept o).lnt = s.lnt := rfl
@[simp] theorem State.accept_txs (s : State) (o : OpSel) : (s.accept o).txs = s.txs := rfl
@[simp] theorem State.accept_rxs (s : State) (o : OpSel) : (s.accept o).rxs = s.rxs := rfl
@[simp] theorem State.accept_closed (s : State) (o : OpSel) : (s.accept o).closed = s.closed := rfl
@[simp] theorem State.accept_txStalled (s : State) (o : OpSel) : (s.accept o).txStalled = s.txStalled := rfl
@[simp] theorem State.accept_inputs (s : State) (o : OpSel) : (s.accept o).inputs = s.inputs := rfl
@[simp] theorem State.accept_freeCtr (s : State) (o : OpSel) : (s.accept o).freeCtr = s.freeCtr := rfl

/-! ## State.latch -/

@[simp] theorem State.latch_op (s : State) (c : U16) (b e : Shape) : (s.latch c b e).op = s.op := rfl
@[simp] theorem State.latch_argCmd (s : State) (c : U16) (b e : Shape) : (s.latch c b e).argCmd = c := rfl
@[simp] theorem State.latch_argBody (s : State) (c : U16) (b e : Shape) : (s.latch c b e).argBody = b := rfl
@[simp] theorem State.latch_argExp (s : State) (c : U16) (b e : Shape) : (s.latch c b e).argExp = e := rfl
@[simp] theorem State.latch_st (s : State) (c : U16) (b e : Shape) : (s.latch c b e).st = s.st := rfl
@[simp] theorem State.latch_seqOp (s : State) (c : U16) (b e : Shape) : (s.latch c b e).seqOp = s.seqOp := rfl
@[simp] theorem State.latch_seqStep (s : State) (c : U16) (b e : Shape) : (s.latch c b e).seqStep = s.seqStep := rfl
@[simp] theorem State.latch_txlen (s : State) (c : U16) (b e : Shape) : (s.latch c b e).txlen = s.txlen := rfl
@[simp] theorem State.latch_txcnt (s : State) (c : U16) (b e : Shape) : (s.latch c b e).txcnt = s.txcnt := rfl
@[simp] theorem State.latch_rxcnt (s : State) (c : U16) (b e : Shape) : (s.latch c b e).rxcnt = s.rxcnt := rfl
@[simp] theorem State.latch_hdrCmd (s : State) (c : U16) (b e : Shape) : (s.latch c b e).hdrCmd = s.hdrCmd := rfl
@[simp] theorem State.latch_hdrLen (s : State) (c : U16) (b e : Shape) : (s.latch c b e).hdrLen = s.hdrLen := rfl
@[simp] theorem State.latch_hdrCsum (s : State) (c : U16) (b e : Shape) : (s.latch c b e).hdrCsum = s.hdrCsum := rfl
@[simp] theorem State.latch_sum (s : State) (c : U16) (b e : Shape) : (s.latch c b e).sum = s.sum := rfl
@[simp] theorem State.latch_rntValid (s : State) (c : U16) (b e : Shape) : (s.latch c b e).rntValid = s.rntValid := rfl
@[simp] theorem State.latch_lntValid (s : State) (c : U16) (b e : Shape) : (s.latch c b e).lntValid = s.lntValid := rfl
@[simp] theorem State.latch_nameUnterminated (s : State) (c : U16) (b e : Shape) : (s.latch c b e).nameUnterminated = s.nameUnterminated := rfl
@[simp] theorem State.latch_connUnreliable (s : State) (c : U16) (b e : Shape) : (s.latch c b e).connUnreliable = s.connUnreliable := rfl
@[simp] theorem State.latch_opRefused (s : State) (c : U16) (b e : Shape) : (s.latch c b e).opRefused = s.opRefused := rfl
@[simp] theorem State.latch_tmrArmed (s : State) (c : U16) (b e : Shape) : (s.latch c b e).tmrArmed = s.tmrArmed := rfl
@[simp] theorem State.latch_tmrExpired (s : State) (c : U16) (b e : Shape) : (s.latch c b e).tmrExpired = s.tmrExpired := rfl
@[simp] theorem State.latch_errKind (s : State) (c : U16) (b e : Shape) : (s.latch c b e).errKind = s.errKind := rfl
@[simp] theorem State.latch_errSub (s : State) (c : U16) (b e : Shape) : (s.latch c b e).errSub = s.errSub := rfl
@[simp] theorem State.latch_errExpected (s : State) (c : U16) (b e : Shape) : (s.latch c b e).errExpected = s.errExpected := rfl
@[simp] theorem State.latch_errActual (s : State) (c : U16) (b e : Shape) : (s.latch c b e).errActual = s.errActual := rfl
@[simp] theorem State.latch_errOpcode (s : State) (c : U16) (b e : Shape) : (s.latch c b e).errOpcode = s.errOpcode := rfl
@[simp] theorem State.latch_errCsumExp (s : State) (c : U16) (b e : Shape) : (s.latch c b e).errCsumExp = s.errCsumExp := rfl
@[simp] theorem State.latch_errCsumGot (s : State) (c : U16) (b e : Shape) : (s.latch c b e).errCsumGot = s.errCsumGot := rfl
@[simp] theorem State.latch_cfgDisconnect (s : State) (c : U16) (b e : Shape) : (s.latch c b e).cfgDisconnect = s.cfgDisconnect := rfl
@[simp] theorem State.latch_txbuf (s : State) (c : U16) (b e : Shape) : (s.latch c b e).txbuf = s.txbuf := rfl
@[simp] theorem State.latch_rxhdr (s : State) (c : U16) (b e : Shape) : (s.latch c b e).rxhdr = s.rxhdr := rfl
@[simp] theorem State.latch_rxbody (s : State) (c : U16) (b e : Shape) : (s.latch c b e).rxbody = s.rxbody := rfl
@[simp] theorem State.latch_rnt (s : State) (c : U16) (b e : Shape) : (s.latch c b e).rnt = s.rnt := rfl
@[simp] theorem State.latch_lnt (s : State) (c : U16) (b e : Shape) : (s.latch c b e).lnt = s.lnt := rfl
@[simp] theorem State.latch_txs (s : State) (c : U16) (b e : Shape) : (s.latch c b e).txs = s.txs := rfl
@[simp] theorem State.latch_rxs (s : State) (c : U16) (b e : Shape) : (s.latch c b e).rxs = s.rxs := rfl
@[simp] theorem State.latch_closed (s : State) (c : U16) (b e : Shape) : (s.latch c b e).closed = s.closed := rfl
@[simp] theorem State.latch_txStalled (s : State) (c : U16) (b e : Shape) : (s.latch c b e).txStalled = s.txStalled := rfl
@[simp] theorem State.latch_inputs (s : State) (c : U16) (b e : Shape) : (s.latch c b e).inputs = s.inputs := rfl
@[simp] theorem State.latch_freeCtr (s : State) (c : U16) (b e : Shape) : (s.latch c b e).freeCtr = s.freeCtr := rfl

/-! ## State.loadTable -/

@[simp] theorem State.loadTable_op (s : State) (t : NameTable) : (s.loadTable t).op = s.op := rfl
@[simp] theorem State.loadTable_argCmd (s : State) (t : NameTable) : (s.loadTable t).argCmd = s.argCmd := rfl
@[simp] theorem State.loadTable_argBody (s : State) (t : NameTable) : (s.loadTable t).argBody = s.argBody := rfl
@[simp] theorem State.loadTable_argExp (s : State) (t : NameTable) : (s.loadTable t).argExp = s.argExp := rfl
@[simp] theorem State.loadTable_st (s : State) (t : NameTable) : (s.loadTable t).st = s.st := rfl
@[simp] theorem State.loadTable_seqOp (s : State) (t : NameTable) : (s.loadTable t).seqOp = s.seqOp := rfl
@[simp] theorem State.loadTable_seqStep (s : State) (t : NameTable) : (s.loadTable t).seqStep = s.seqStep := rfl
@[simp] theorem State.loadTable_txlen (s : State) (t : NameTable) : (s.loadTable t).txlen = s.txlen := rfl
@[simp] theorem State.loadTable_txcnt (s : State) (t : NameTable) : (s.loadTable t).txcnt = s.txcnt := rfl
@[simp] theorem State.loadTable_rxcnt (s : State) (t : NameTable) : (s.loadTable t).rxcnt = s.rxcnt := rfl
@[simp] theorem State.loadTable_hdrCmd (s : State) (t : NameTable) : (s.loadTable t).hdrCmd = s.hdrCmd := rfl
@[simp] theorem State.loadTable_hdrLen (s : State) (t : NameTable) : (s.loadTable t).hdrLen = s.hdrLen := rfl
@[simp] theorem State.loadTable_hdrCsum (s : State) (t : NameTable) : (s.loadTable t).hdrCsum = s.hdrCsum := rfl
@[simp] theorem State.loadTable_sum (s : State) (t : NameTable) : (s.loadTable t).sum = s.sum := rfl
@[simp] theorem State.loadTable_rntValid (s : State) (t : NameTable) : (s.loadTable t).rntValid = s.rntValid := rfl
@[simp] theorem State.loadTable_lntValid (s : State) (t : NameTable) : (s.loadTable t).lntValid = true := rfl
@[simp] theorem State.loadTable_nameUnterminated (s : State) (t : NameTable) : (s.loadTable t).nameUnterminated = s.nameUnterminated := rfl
@[simp] theorem State.loadTable_connUnreliable (s : State) (t : NameTable) : (s.loadTable t).connUnreliable = s.connUnreliable := rfl
@[simp] theorem State.loadTable_opRefused (s : State) (t : NameTable) : (s.loadTable t).opRefused = s.opRefused := rfl
@[simp] theorem State.loadTable_tmrArmed (s : State) (t : NameTable) : (s.loadTable t).tmrArmed = s.tmrArmed := rfl
@[simp] theorem State.loadTable_tmrExpired (s : State) (t : NameTable) : (s.loadTable t).tmrExpired = s.tmrExpired := rfl
@[simp] theorem State.loadTable_errKind (s : State) (t : NameTable) : (s.loadTable t).errKind = s.errKind := rfl
@[simp] theorem State.loadTable_errSub (s : State) (t : NameTable) : (s.loadTable t).errSub = s.errSub := rfl
@[simp] theorem State.loadTable_errExpected (s : State) (t : NameTable) : (s.loadTable t).errExpected = s.errExpected := rfl
@[simp] theorem State.loadTable_errActual (s : State) (t : NameTable) : (s.loadTable t).errActual = s.errActual := rfl
@[simp] theorem State.loadTable_errOpcode (s : State) (t : NameTable) : (s.loadTable t).errOpcode = s.errOpcode := rfl
@[simp] theorem State.loadTable_errCsumExp (s : State) (t : NameTable) : (s.loadTable t).errCsumExp = s.errCsumExp := rfl
@[simp] theorem State.loadTable_errCsumGot (s : State) (t : NameTable) : (s.loadTable t).errCsumGot = s.errCsumGot := rfl
@[simp] theorem State.loadTable_cfgDisconnect (s : State) (t : NameTable) : (s.loadTable t).cfgDisconnect = s.cfgDisconnect := rfl
@[simp] theorem State.loadTable_txbuf (s : State) (t : NameTable) : (s.loadTable t).txbuf = s.txbuf := rfl
@[simp] theorem State.loadTable_rxhdr (s : State) (t : NameTable) : (s.loadTable t).rxhdr = s.rxhdr := rfl
@[simp] theorem State.loadTable_rxbody (s : State) (t : NameTable) : (s.loadTable t).rxbody = s.rxbody := rfl
@[simp] theorem State.loadTable_rnt (s : State) (t : NameTable) : (s.loadTable t).rnt = s.rnt := rfl
@[simp] theorem State.loadTable_lnt (s : State) (t : NameTable) : (s.loadTable t).lnt = t := rfl
@[simp] theorem State.loadTable_txs (s : State) (t : NameTable) : (s.loadTable t).txs = s.txs := rfl
@[simp] theorem State.loadTable_rxs (s : State) (t : NameTable) : (s.loadTable t).rxs = s.rxs := rfl
@[simp] theorem State.loadTable_closed (s : State) (t : NameTable) : (s.loadTable t).closed = s.closed := rfl
@[simp] theorem State.loadTable_txStalled (s : State) (t : NameTable) : (s.loadTable t).txStalled = s.txStalled := rfl
@[simp] theorem State.loadTable_inputs (s : State) (t : NameTable) : (s.loadTable t).inputs = s.inputs := rfl
@[simp] theorem State.loadTable_freeCtr (s : State) (t : NameTable) : (s.loadTable t).freeCtr = s.freeCtr := rfl

/-! ## State.pushByte -/

@[simp] theorem State.pushByte_op (s : State) (b : Byte) : (s.pushByte b).op = s.op := rfl
@[simp] theorem State.pushByte_argCmd (s : State) (b : Byte) : (s.pushByte b).argCmd = s.argCmd := rfl
@[simp] theorem State.pushByte_argBody (s : State) (b : Byte) : (s.pushByte b).argBody = s.argBody := rfl
@[simp] theorem State.pushByte_argExp (s : State) (b : Byte) : (s.pushByte b).argExp = s.argExp := rfl
@[simp] theorem State.pushByte_st (s : State) (b : Byte) : (s.pushByte b).st = s.st := rfl
@[simp] theorem State.pushByte_seqOp (s : State) (b : Byte) : (s.pushByte b).seqOp = s.seqOp := rfl
@[simp] theorem State.pushByte_seqStep (s : State) (b : Byte) : (s.pushByte b).seqStep = s.seqStep := rfl
@[simp] theorem State.pushByte_txlen (s : State) (b : Byte) : (s.pushByte b).txlen = s.txlen := rfl
@[simp] theorem State.pushByte_txcnt (s : State) (b : Byte) : (s.pushByte b).txcnt = s.txcnt := rfl
@[simp] theorem State.pushByte_rxcnt (s : State) (b : Byte) : (s.pushByte b).rxcnt = s.rxcnt := rfl
@[simp] theorem State.pushByte_hdrCmd (s : State) (b : Byte) : (s.pushByte b).hdrCmd = s.hdrCmd := rfl
@[simp] theorem State.pushByte_hdrLen (s : State) (b : Byte) : (s.pushByte b).hdrLen = s.hdrLen := rfl
@[simp] theorem State.pushByte_hdrCsum (s : State) (b : Byte) : (s.pushByte b).hdrCsum = s.hdrCsum := rfl
@[simp] theorem State.pushByte_sum (s : State) (b : Byte) : (s.pushByte b).sum = s.sum := rfl
@[simp] theorem State.pushByte_rntValid (s : State) (b : Byte) : (s.pushByte b).rntValid = s.rntValid := rfl
@[simp] theorem State.pushByte_lntValid (s : State) (b : Byte) : (s.pushByte b).lntValid = s.lntValid := rfl
@[simp] theorem State.pushByte_nameUnterminated (s : State) (b : Byte) : (s.pushByte b).nameUnterminated = s.nameUnterminated := rfl
@[simp] theorem State.pushByte_connUnreliable (s : State) (b : Byte) : (s.pushByte b).connUnreliable = s.connUnreliable := rfl
@[simp] theorem State.pushByte_opRefused (s : State) (b : Byte) : (s.pushByte b).opRefused = s.opRefused := rfl
@[simp] theorem State.pushByte_tmrArmed (s : State) (b : Byte) : (s.pushByte b).tmrArmed = s.tmrArmed := rfl
@[simp] theorem State.pushByte_tmrExpired (s : State) (b : Byte) : (s.pushByte b).tmrExpired = s.tmrExpired := rfl
@[simp] theorem State.pushByte_errKind (s : State) (b : Byte) : (s.pushByte b).errKind = s.errKind := rfl
@[simp] theorem State.pushByte_errSub (s : State) (b : Byte) : (s.pushByte b).errSub = s.errSub := rfl
@[simp] theorem State.pushByte_errExpected (s : State) (b : Byte) : (s.pushByte b).errExpected = s.errExpected := rfl
@[simp] theorem State.pushByte_errActual (s : State) (b : Byte) : (s.pushByte b).errActual = s.errActual := rfl
@[simp] theorem State.pushByte_errOpcode (s : State) (b : Byte) : (s.pushByte b).errOpcode = s.errOpcode := rfl
@[simp] theorem State.pushByte_errCsumExp (s : State) (b : Byte) : (s.pushByte b).errCsumExp = s.errCsumExp := rfl
@[simp] theorem State.pushByte_errCsumGot (s : State) (b : Byte) : (s.pushByte b).errCsumGot = s.errCsumGot := rfl
@[simp] theorem State.pushByte_cfgDisconnect (s : State) (b : Byte) : (s.pushByte b).cfgDisconnect = s.cfgDisconnect := rfl
@[simp] theorem State.pushByte_txbuf (s : State) (b : Byte) : (s.pushByte b).txbuf = s.txbuf := rfl
@[simp] theorem State.pushByte_rxhdr (s : State) (b : Byte) : (s.pushByte b).rxhdr = s.rxhdr := rfl
@[simp] theorem State.pushByte_rxbody (s : State) (b : Byte) : (s.pushByte b).rxbody = s.rxbody := rfl
@[simp] theorem State.pushByte_rnt (s : State) (b : Byte) : (s.pushByte b).rnt = s.rnt := rfl
@[simp] theorem State.pushByte_lnt (s : State) (b : Byte) : (s.pushByte b).lnt = s.lnt := rfl
@[simp] theorem State.pushByte_txs (s : State) (b : Byte) : (s.pushByte b).txs = s.txs ++ [b] := rfl
@[simp] theorem State.pushByte_rxs (s : State) (b : Byte) : (s.pushByte b).rxs = s.rxs := rfl
@[simp] theorem State.pushByte_closed (s : State) (b : Byte) : (s.pushByte b).closed = s.closed := rfl
@[simp] theorem State.pushByte_txStalled (s : State) (b : Byte) : (s.pushByte b).txStalled = s.txStalled := rfl
@[simp] theorem State.pushByte_inputs (s : State) (b : Byte) : (s.pushByte b).inputs = s.inputs := rfl
@[simp] theorem State.pushByte_freeCtr (s : State) (b : Byte) : (s.pushByte b).freeCtr = s.freeCtr := rfl

/-! ## State.dropHead -/

@[simp] theorem State.dropHead_op (s : State) : (s.dropHead).op = s.op := rfl
@[simp] theorem State.dropHead_argCmd (s : State) : (s.dropHead).argCmd = s.argCmd := rfl
@[simp] theorem State.dropHead_argBody (s : State) : (s.dropHead).argBody = s.argBody := rfl
@[simp] theorem State.dropHead_argExp (s : State) : (s.dropHead).argExp = s.argExp := rfl
@[simp] theorem State.dropHead_st (s : State) : (s.dropHead).st = s.st := rfl
@[simp] theorem State.dropHead_seqOp (s : State) : (s.dropHead).seqOp = s.seqOp := rfl
@[simp] theorem State.dropHead_seqStep (s : State) : (s.dropHead).seqStep = s.seqStep := rfl
@[simp] theorem State.dropHead_txlen (s : State) : (s.dropHead).txlen = s.txlen := rfl
@[simp] theorem State.dropHead_txcnt (s : State) : (s.dropHead).txcnt = s.txcnt := rfl
@[simp] theorem State.dropHead_rxcnt (s : State) : (s.dropHead).rxcnt = s.rxcnt := rfl
@[simp] theorem State.dropHead_hdrCmd (s : State) : (s.dropHead).hdrCmd = s.hdrCmd := rfl
@[simp] theorem State.dropHead_hdrLen (s : State) : (s.dropHead).hdrLen = s.hdrLen := rfl
@[simp] theorem State.dropHead_hdrCsum (s : State) : (s.dropHead).hdrCsum = s.hdrCsum := rfl
@[simp] theorem State.dropHead_sum (s : State) : (s.dropHead).sum = s.sum := rfl
@[simp] theorem State.dropHead_rntValid (s : State) : (s.dropHead).rntValid = s.rntValid := rfl
@[simp] theorem State.dropHead_lntValid (s : State) : (s.dropHead).lntValid = s.lntValid := rfl
@[simp] theorem State.dropHead_nameUnterminated (s : State) : (s.dropHead).nameUnterminated = s.nameUnterminated := rfl
@[simp] theorem State.dropHead_connUnreliable (s : State) : (s.dropHead).connUnreliable = s.connUnreliable := rfl
@[simp] theorem State.dropHead_opRefused (s : State) : (s.dropHead).opRefused = s.opRefused := rfl
@[simp] theorem State.dropHead_tmrArmed (s : State) : (s.dropHead).tmrArmed = s.tmrArmed := rfl
@[simp] theorem State.dropHead_tmrExpired (s : State) : (s.dropHead).tmrExpired = s.tmrExpired := rfl
@[simp] theorem State.dropHead_errKind (s : State) : (s.dropHead).errKind = s.errKind := rfl
@[simp] theorem State.dropHead_errSub (s : State) : (s.dropHead).errSub = s.errSub := rfl
@[simp] theorem State.dropHead_errExpected (s : State) : (s.dropHead).errExpected = s.errExpected := rfl
@[simp] theorem State.dropHead_errActual (s : State) : (s.dropHead).errActual = s.errActual := rfl
@[simp] theorem State.dropHead_errOpcode (s : State) : (s.dropHead).errOpcode = s.errOpcode := rfl
@[simp] theorem State.dropHead_errCsumExp (s : State) : (s.dropHead).errCsumExp = s.errCsumExp := rfl
@[simp] theorem State.dropHead_errCsumGot (s : State) : (s.dropHead).errCsumGot = s.errCsumGot := rfl
@[simp] theorem State.dropHead_cfgDisconnect (s : State) : (s.dropHead).cfgDisconnect = s.cfgDisconnect := rfl
@[simp] theorem State.dropHead_txbuf (s : State) : (s.dropHead).txbuf = s.txbuf := rfl
@[simp] theorem State.dropHead_rxhdr (s : State) : (s.dropHead).rxhdr = s.rxhdr := rfl
@[simp] theorem State.dropHead_rxbody (s : State) : (s.dropHead).rxbody = s.rxbody := rfl
@[simp] theorem State.dropHead_rnt (s : State) : (s.dropHead).rnt = s.rnt := rfl
@[simp] theorem State.dropHead_lnt (s : State) : (s.dropHead).lnt = s.lnt := rfl
@[simp] theorem State.dropHead_txs (s : State) : (s.dropHead).txs = s.txs := rfl
@[simp] theorem State.dropHead_rxs (s : State) : (s.dropHead).rxs = s.rxs.tail := rfl
@[simp] theorem State.dropHead_closed (s : State) : (s.dropHead).closed = s.closed := rfl
@[simp] theorem State.dropHead_txStalled (s : State) : (s.dropHead).txStalled = s.txStalled := rfl
@[simp] theorem State.dropHead_inputs (s : State) : (s.dropHead).inputs = s.inputs := rfl
@[simp] theorem State.dropHead_freeCtr (s : State) : (s.dropHead).freeCtr = s.freeCtr := rfl

/-! ## State.disarm -/

@[simp] theorem State.disarm_op (s : State) : (s.disarm).op = s.op := rfl
@[simp] theorem State.disarm_argCmd (s : State) : (s.disarm).argCmd = s.argCmd := rfl
@[simp] theorem State.disarm_argBody (s : State) : (s.disarm).argBody = s.argBody := rfl
@[simp] theorem State.disarm_argExp (s : State) : (s.disarm).argExp = s.argExp := rfl
@[simp] theorem State.disarm_st (s : State) : (s.disarm).st = s.st := rfl
@[simp] theorem State.disarm_seqOp (s : State) : (s.disarm).seqOp = s.seqOp := rfl
@[simp] theorem State.disarm_seqStep (s : State) : (s.disarm).seqStep = s.seqStep := rfl
@[simp] theorem State.disarm_txlen (s : State) : (s.disarm).txlen = s.txlen := rfl
@[simp] theorem State.disarm_txcnt (s : State) : (s.disarm).txcnt = s.txcnt := rfl
@[simp] theorem State.disarm_rxcnt (s : State) : (s.disarm).rxcnt = s.rxcnt := rfl
@[simp] theorem State.disarm_hdrCmd (s : State) : (s.disarm).hdrCmd = s.hdrCmd := rfl
@[simp] theorem State.disarm_hdrLen (s : State) : (s.disarm).hdrLen = s.hdrLen := rfl
@[simp] theorem State.disarm_hdrCsum (s : State) : (s.disarm).hdrCsum = s.hdrCsum := rfl
@[simp] theorem State.disarm_sum (s : State) : (s.disarm).sum = s.sum := rfl
@[simp] theorem State.disarm_rntValid (s : State) : (s.disarm).rntValid = s.rntValid := rfl
@[simp] theorem State.disarm_lntValid (s : State) : (s.disarm).lntValid = s.lntValid := rfl
@[simp] theorem State.disarm_nameUnterminated (s : State) : (s.disarm).nameUnterminated = s.nameUnterminated := rfl
@[simp] theorem State.disarm_connUnreliable (s : State) : (s.disarm).connUnreliable = s.connUnreliable := rfl
@[simp] theorem State.disarm_opRefused (s : State) : (s.disarm).opRefused = s.opRefused := rfl
@[simp] theorem State.disarm_tmrArmed (s : State) : (s.disarm).tmrArmed = false := rfl
@[simp] theorem State.disarm_tmrExpired (s : State) : (s.disarm).tmrExpired = false := rfl
@[simp] theorem State.disarm_errKind (s : State) : (s.disarm).errKind = s.errKind := rfl
@[simp] theorem State.disarm_errSub (s : State) : (s.disarm).errSub = s.errSub := rfl
@[simp] theorem State.disarm_errExpected (s : State) : (s.disarm).errExpected = s.errExpected := rfl
@[simp] theorem State.disarm_errActual (s : State) : (s.disarm).errActual = s.errActual := rfl
@[simp] theorem State.disarm_errOpcode (s : State) : (s.disarm).errOpcode = s.errOpcode := rfl
@[simp] theorem State.disarm_errCsumExp (s : State) : (s.disarm).errCsumExp = s.errCsumExp := rfl
@[simp] theorem State.disarm_errCsumGot (s : State) : (s.disarm).errCsumGot = s.errCsumGot := rfl
@[simp] theorem State.disarm_cfgDisconnect (s : State) : (s.disarm).cfgDisconnect = s.cfgDisconnect := rfl
@[simp] theorem State.disarm_txbuf (s : State) : (s.disarm).txbuf = s.txbuf := rfl
@[simp] theorem State.disarm_rxhdr (s : State) : (s.disarm).rxhdr = s.rxhdr := rfl
@[simp] theorem State.disarm_rxbody (s : State) : (s.disarm).rxbody = s.rxbody := rfl
@[simp] theorem State.disarm_rnt (s : State) : (s.disarm).rnt = s.rnt := rfl
@[simp] theorem State.disarm_lnt (s : State) : (s.disarm).lnt = s.lnt := rfl
@[simp] theorem State.disarm_txs (s : State) : (s.disarm).txs = s.txs := rfl
@[simp] theorem State.disarm_rxs (s : State) : (s.disarm).rxs = s.rxs := rfl
@[simp] theorem State.disarm_closed (s : State) : (s.disarm).closed = s.closed := rfl
@[simp] theorem State.disarm_txStalled (s : State) : (s.disarm).txStalled = s.txStalled := rfl
@[simp] theorem State.disarm_inputs (s : State) : (s.disarm).inputs = s.inputs := rfl
@[simp] theorem State.disarm_freeCtr (s : State) : (s.disarm).freeCtr = s.freeCtr := rfl

/-! ## State.putFrame -/

@[simp] theorem State.putFrame_op (s : State) (f : List Byte) : (s.putFrame f).op = s.op := rfl
@[simp] theorem State.putFrame_argCmd (s : State) (f : List Byte) : (s.putFrame f).argCmd = s.argCmd := rfl
@[simp] theorem State.putFrame_argBody (s : State) (f : List Byte) : (s.putFrame f).argBody = s.argBody := rfl
@[simp] theorem State.putFrame_argExp (s : State) (f : List Byte) : (s.putFrame f).argExp = s.argExp := rfl
@[simp] theorem State.putFrame_st (s : State) (f : List Byte) : (s.putFrame f).st = s.st := rfl
@[simp] theorem State.putFrame_seqOp (s : State) (f : List Byte) : (s.putFrame f).seqOp = s.seqOp := rfl
@[simp] theorem State.putFrame_seqStep (s : State) (f : List Byte) : (s.putFrame f).seqStep = s.seqStep := rfl
@[simp] theorem State.putFrame_txlen (s : State) (f : List Byte) : (s.putFrame f).txlen = s.txlen := rfl
@[simp] theorem State.putFrame_txcnt (s : State) (f : List Byte) : (s.putFrame f).txcnt = s.txcnt := rfl
@[simp] theorem State.putFrame_rxcnt (s : State) (f : List Byte) : (s.putFrame f).rxcnt = s.rxcnt := rfl
@[simp] theorem State.putFrame_hdrCmd (s : State) (f : List Byte) : (s.putFrame f).hdrCmd = s.hdrCmd := rfl
@[simp] theorem State.putFrame_hdrLen (s : State) (f : List Byte) : (s.putFrame f).hdrLen = s.hdrLen := rfl
@[simp] theorem State.putFrame_hdrCsum (s : State) (f : List Byte) : (s.putFrame f).hdrCsum = s.hdrCsum := rfl
@[simp] theorem State.putFrame_sum (s : State) (f : List Byte) : (s.putFrame f).sum = s.sum := rfl
@[simp] theorem State.putFrame_rntValid (s : State) (f : List Byte) : (s.putFrame f).rntValid = s.rntValid := rfl
@[simp] theorem State.putFrame_lntValid (s : State) (f : List Byte) : (s.putFrame f).lntValid = s.lntValid := rfl
@[simp] theorem State.putFrame_nameUnterminated (s : State) (f : List Byte) : (s.putFrame f).nameUnterminated = s.nameUnterminated := rfl
@[simp] theorem State.putFrame_connUnreliable (s : State) (f : List Byte) : (s.putFrame f).connUnreliable = s.connUnreliable := rfl
@[simp] theorem State.putFrame_opRefused (s : State) (f : List Byte) : (s.putFrame f).opRefused = s.opRefused := rfl
@[simp] theorem State.putFrame_tmrArmed (s : State) (f : List Byte) : (s.putFrame f).tmrArmed = s.tmrArmed := rfl
@[simp] theorem State.putFrame_tmrExpired (s : State) (f : List Byte) : (s.putFrame f).tmrExpired = s.tmrExpired := rfl
@[simp] theorem State.putFrame_errKind (s : State) (f : List Byte) : (s.putFrame f).errKind = s.errKind := rfl
@[simp] theorem State.putFrame_errSub (s : State) (f : List Byte) : (s.putFrame f).errSub = s.errSub := rfl
@[simp] theorem State.putFrame_errExpected (s : State) (f : List Byte) : (s.putFrame f).errExpected = s.errExpected := rfl
@[simp] theorem State.putFrame_errActual (s : State) (f : List Byte) : (s.putFrame f).errActual = s.errActual := rfl
@[simp] theorem State.putFrame_errOpcode (s : State) (f : List Byte) : (s.putFrame f).errOpcode = s.errOpcode := rfl
@[simp] theorem State.putFrame_errCsumExp (s : State) (f : List Byte) : (s.putFrame f).errCsumExp = s.errCsumExp := rfl
@[simp] theorem State.putFrame_errCsumGot (s : State) (f : List Byte) : (s.putFrame f).errCsumGot = s.errCsumGot := rfl
@[simp] theorem State.putFrame_cfgDisconnect (s : State) (f : List Byte) : (s.putFrame f).cfgDisconnect = s.cfgDisconnect := rfl
@[simp] theorem State.putFrame_txbuf (s : State) (f : List Byte) : (s.putFrame f).txbuf = bufOf Config.txbufSize (f ++ (bytesOf (Config.freeTxbuf s.freeCtr)).drop f.length) := rfl
@[simp] theorem State.putFrame_rxhdr (s : State) (f : List Byte) : (s.putFrame f).rxhdr = s.rxhdr := rfl
@[simp] theorem State.putFrame_rxbody (s : State) (f : List Byte) : (s.putFrame f).rxbody = s.rxbody := rfl
@[simp] theorem State.putFrame_rnt (s : State) (f : List Byte) : (s.putFrame f).rnt = s.rnt := rfl
@[simp] theorem State.putFrame_lnt (s : State) (f : List Byte) : (s.putFrame f).lnt = s.lnt := rfl
@[simp] theorem State.putFrame_txs (s : State) (f : List Byte) : (s.putFrame f).txs = s.txs := rfl
@[simp] theorem State.putFrame_rxs (s : State) (f : List Byte) : (s.putFrame f).rxs = s.rxs := rfl
@[simp] theorem State.putFrame_closed (s : State) (f : List Byte) : (s.putFrame f).closed = s.closed := rfl
@[simp] theorem State.putFrame_txStalled (s : State) (f : List Byte) : (s.putFrame f).txStalled = s.txStalled := rfl
@[simp] theorem State.putFrame_inputs (s : State) (f : List Byte) : (s.putFrame f).inputs = s.inputs := rfl
@[simp] theorem State.putFrame_freeCtr (s : State) (f : List Byte) : (s.putFrame f).freeCtr = s.freeCtr + 1 := rfl

/-! ## State.loseRxbody -/

@[simp] theorem State.loseRxbody_op (s : State) : (s.loseRxbody).op = s.op := rfl
@[simp] theorem State.loseRxbody_argCmd (s : State) : (s.loseRxbody).argCmd = s.argCmd := rfl
@[simp] theorem State.loseRxbody_argBody (s : State) : (s.loseRxbody).argBody = s.argBody := rfl
@[simp] theorem State.loseRxbody_argExp (s : State) : (s.loseRxbody).argExp = s.argExp := rfl
@[simp] theorem State.loseRxbody_st (s : State) : (s.loseRxbody).st = s.st := rfl
@[simp] theorem State.loseRxbody_seqOp (s : State) : (s.loseRxbody).seqOp = s.seqOp := rfl
@[simp] theorem State.loseRxbody_seqStep (s : State) : (s.loseRxbody).seqStep = s.seqStep := rfl
@[simp] theorem State.loseRxbody_txlen (s : State) : (s.loseRxbody).txlen = s.txlen := rfl
@[simp] theorem State.loseRxbody_txcnt (s : State) : (s.loseRxbody).txcnt = s.txcnt := rfl
@[simp] theorem State.loseRxbody_rxcnt (s : State) : (s.loseRxbody).rxcnt = s.rxcnt := rfl
@[simp] theorem State.loseRxbody_hdrCmd (s : State) : (s.loseRxbody).hdrCmd = s.hdrCmd := rfl
@[simp] theorem State.loseRxbody_hdrLen (s : State) : (s.loseRxbody).hdrLen = s.hdrLen := rfl
@[simp] theorem State.loseRxbody_hdrCsum (s : State) : (s.loseRxbody).hdrCsum = s.hdrCsum := rfl
@[simp] theorem State.loseRxbody_sum (s : State) : (s.loseRxbody).sum = s.sum := rfl
@[simp] theorem State.loseRxbody_rntValid (s : State) : (s.loseRxbody).rntValid = s.rntValid := rfl
@[simp] theorem State.loseRxbody_lntValid (s : State) : (s.loseRxbody).lntValid = s.lntValid := rfl
@[simp] theorem State.loseRxbody_nameUnterminated (s : State) : (s.loseRxbody).nameUnterminated = s.nameUnterminated := rfl
@[simp] theorem State.loseRxbody_connUnreliable (s : State) : (s.loseRxbody).connUnreliable = s.connUnreliable := rfl
@[simp] theorem State.loseRxbody_opRefused (s : State) : (s.loseRxbody).opRefused = s.opRefused := rfl
@[simp] theorem State.loseRxbody_tmrArmed (s : State) : (s.loseRxbody).tmrArmed = s.tmrArmed := rfl
@[simp] theorem State.loseRxbody_tmrExpired (s : State) : (s.loseRxbody).tmrExpired = s.tmrExpired := rfl
@[simp] theorem State.loseRxbody_errKind (s : State) : (s.loseRxbody).errKind = s.errKind := rfl
@[simp] theorem State.loseRxbody_errSub (s : State) : (s.loseRxbody).errSub = s.errSub := rfl
@[simp] theorem State.loseRxbody_errExpected (s : State) : (s.loseRxbody).errExpected = s.errExpected := rfl
@[simp] theorem State.loseRxbody_errActual (s : State) : (s.loseRxbody).errActual = s.errActual := rfl
@[simp] theorem State.loseRxbody_errOpcode (s : State) : (s.loseRxbody).errOpcode = s.errOpcode := rfl
@[simp] theorem State.loseRxbody_errCsumExp (s : State) : (s.loseRxbody).errCsumExp = s.errCsumExp := rfl
@[simp] theorem State.loseRxbody_errCsumGot (s : State) : (s.loseRxbody).errCsumGot = s.errCsumGot := rfl
@[simp] theorem State.loseRxbody_cfgDisconnect (s : State) : (s.loseRxbody).cfgDisconnect = s.cfgDisconnect := rfl
@[simp] theorem State.loseRxbody_txbuf (s : State) : (s.loseRxbody).txbuf = s.txbuf := rfl
@[simp] theorem State.loseRxbody_rxhdr (s : State) : (s.loseRxbody).rxhdr = s.rxhdr := rfl
@[simp] theorem State.loseRxbody_rxbody (s : State) : (s.loseRxbody).rxbody = Config.freeRxbody s.freeCtr := rfl
@[simp] theorem State.loseRxbody_rnt (s : State) : (s.loseRxbody).rnt = s.rnt := rfl
@[simp] theorem State.loseRxbody_lnt (s : State) : (s.loseRxbody).lnt = s.lnt := rfl
@[simp] theorem State.loseRxbody_txs (s : State) : (s.loseRxbody).txs = s.txs := rfl
@[simp] theorem State.loseRxbody_rxs (s : State) : (s.loseRxbody).rxs = s.rxs := rfl
@[simp] theorem State.loseRxbody_closed (s : State) : (s.loseRxbody).closed = s.closed := rfl
@[simp] theorem State.loseRxbody_txStalled (s : State) : (s.loseRxbody).txStalled = s.txStalled := rfl
@[simp] theorem State.loseRxbody_inputs (s : State) : (s.loseRxbody).inputs = s.inputs := rfl
@[simp] theorem State.loseRxbody_freeCtr (s : State) : (s.loseRxbody).freeCtr = s.freeCtr + 1 := rfl

/-! ## State.raise -/

@[simp] theorem State.raise_op (s : State) (f : Failure) : (s.raise f).op = s.op := by cases f <;> rfl
@[simp] theorem State.raise_argCmd (s : State) (f : Failure) : (s.raise f).argCmd = s.argCmd := by cases f <;> rfl
@[simp] theorem State.raise_argBody (s : State) (f : Failure) : (s.raise f).argBody = s.argBody := by cases f <;> rfl
@[simp] theorem State.raise_argExp (s : State) (f : Failure) : (s.raise f).argExp = s.argExp := by cases f <;> rfl
@[simp] theorem State.raise_st (s : State) (f : Failure) : (s.raise f).st = .failed := by cases f <;> rfl
@[simp] theorem State.raise_seqOp (s : State) (f : Failure) : (s.raise f).seqOp = s.seqOp := by cases f <;> rfl
@[simp] theorem State.raise_seqStep (s : State) (f : Failure) : (s.raise f).seqStep = s.seqStep := by cases f <;> rfl
@[simp] theorem State.raise_txlen (s : State) (f : Failure) : (s.raise f).txlen = s.txlen := by cases f <;> rfl
@[simp] theorem State.raise_txcnt (s : State) (f : Failure) : (s.raise f).txcnt = s.txcnt := by cases f <;> rfl
@[simp] theorem State.raise_rxcnt (s : State) (f : Failure) : (s.raise f).rxcnt = s.rxcnt := by cases f <;> rfl
@[simp] theorem State.raise_hdrCmd (s : State) (f : Failure) : (s.raise f).hdrCmd = s.hdrCmd := by cases f <;> rfl
@[simp] theorem State.raise_hdrLen (s : State) (f : Failure) : (s.raise f).hdrLen = s.hdrLen := by cases f <;> rfl
@[simp] theorem State.raise_hdrCsum (s : State) (f : Failure) : (s.raise f).hdrCsum = s.hdrCsum := by cases f <;> rfl
@[simp] theorem State.raise_sum (s : State) (f : Failure) : (s.raise f).sum = s.sum := by cases f <;> rfl
@[simp] theorem State.raise_rntValid (s : State) (f : Failure) : (s.raise f).rntValid = s.rntValid := by cases f <;> rfl
@[simp] theorem State.raise_lntValid (s : State) (f : Failure) : (s.raise f).lntValid = s.lntValid := by cases f <;> rfl
@[simp] theorem State.raise_nameUnterminated (s : State) (f : Failure) : (s.raise f).nameUnterminated = s.nameUnterminated := by cases f <;> rfl
@[simp] theorem State.raise_connUnreliable (s : State) (f : Failure) : (s.raise f).connUnreliable = (s.connUnreliable || f.kind == .transport) := by cases f <;> rfl
@[simp] theorem State.raise_opRefused (s : State) (f : Failure) : (s.raise f).opRefused = s.opRefused := by cases f <;> rfl
@[simp] theorem State.raise_tmrArmed (s : State) (f : Failure) : (s.raise f).tmrArmed = false := by cases f <;> rfl
@[simp] theorem State.raise_tmrExpired (s : State) (f : Failure) : (s.raise f).tmrExpired = false := by cases f <;> rfl
@[simp] theorem State.raise_errKind (s : State) (f : Failure) : (s.raise f).errKind = f.kind := by cases f <;> rfl
@[simp] theorem State.raise_errSub (s : State) (f : Failure) : (s.raise f).errSub = f.sub := by cases f <;> rfl
@[simp] theorem State.raise_cfgDisconnect (s : State) (f : Failure) : (s.raise f).cfgDisconnect = s.cfgDisconnect := by cases f <;> rfl
@[simp] theorem State.raise_txbuf (s : State) (f : Failure) : (s.raise f).txbuf = s.txbuf := by cases f <;> rfl
@[simp] theorem State.raise_rxhdr (s : State) (f : Failure) : (s.raise f).rxhdr = s.rxhdr := by cases f <;> rfl
@[simp] theorem State.raise_rnt (s : State) (f : Failure) : (s.raise f).rnt = s.rnt := by cases f <;> rfl
@[simp] theorem State.raise_lnt (s : State) (f : Failure) : (s.raise f).lnt = s.lnt := by cases f <;> rfl
@[simp] theorem State.raise_txs (s : State) (f : Failure) : (s.raise f).txs = s.txs := by cases f <;> rfl
@[simp] theorem State.raise_rxs (s : State) (f : Failure) : (s.raise f).rxs = s.rxs := by cases f <;> rfl
@[simp] theorem State.raise_closed (s : State) (f : Failure) : (s.raise f).closed = s.closed := by cases f <;> rfl
@[simp] theorem State.raise_txStalled (s : State) (f : Failure) : (s.raise f).txStalled = s.txStalled := by cases f <;> rfl
@[simp] theorem State.raise_inputs (s : State) (f : Failure) : (s.raise f).inputs = s.inputs := by cases f <;> rfl

/-! ## State.beginReceive -/

@[simp] theorem State.beginReceive_op (s : State) : (s.beginReceive).op = s.op := by unfold State.beginReceive State.unreliableStream; split <;> rfl
@[simp] theorem State.beginReceive_argCmd (s : State) : (s.beginReceive).argCmd = s.argCmd := by unfold State.beginReceive State.unreliableStream; split <;> rfl
@[simp] theorem State.beginReceive_argBody (s : State) : (s.beginReceive).argBody = s.argBody := by unfold State.beginReceive State.unreliableStream; split <;> rfl
@[simp] theorem State.beginReceive_argExp (s : State) : (s.beginReceive).argExp = s.argExp := by unfold State.beginReceive State.unreliableStream; split <;> rfl
@[simp] theorem State.beginReceive_st (s : State) : (s.beginReceive).st = .rxHdr := by unfold State.beginReceive State.unreliableStream; split <;> rfl
@[simp] theorem State.beginReceive_seqOp (s : State) : (s.beginReceive).seqOp = s.seqOp := by unfold State.beginReceive State.unreliableStream; split <;> rfl
@[simp] theorem State.beginReceive_seqStep (s : State) : (s.beginReceive).seqStep = s.seqStep := by unfold State.beginReceive State.unreliableStream; split <;> rfl
@[simp] theorem State.beginReceive_txlen (s : State) : (s.beginReceive).txlen = s.txlen := by unfold State.beginReceive State.unreliableStream; split <;> rfl
@[simp] theorem State.beginReceive_txcnt (s : State) : (s.beginReceive).txcnt = s.txcnt := by unfold State.beginReceive State.unreliableStream; split <;> rfl
@[simp] theorem State.beginReceive_rxcnt (s : State) : (s.beginReceive).rxcnt = 0 := by unfold State.beginReceive State.unreliableStream; split <;> rfl
@[simp] theorem State.beginReceive_hdrCmd (s : State) : (s.beginReceive).hdrCmd = s.hdrCmd := by unfold State.beginReceive State.unreliableStream; split <;> rfl
@[simp] theorem State.beginReceive_hdrLen (s : State) : (s.beginReceive).hdrLen = s.hdrLen := by unfold State.beginReceive State.unreliableStream; split <;> rfl
@[simp] theorem State.beginReceive_hdrCsum (s : State) : (s.beginReceive).hdrCsum = s.hdrCsum := by unfold State.beginReceive State.unreliableStream; split <;> rfl
@[simp] theorem State.beginReceive_sum (s : State) : (s.beginReceive).sum = s.sum := by unfold State.beginReceive State.unreliableStream; split <;> rfl
@[simp] theorem State.beginReceive_rntValid (s : State) : (s.beginReceive).rntValid = s.rntValid := by unfold State.beginReceive State.unreliableStream; split <;> rfl
@[simp] theorem State.beginReceive_lntValid (s : State) : (s.beginReceive).lntValid = s.lntValid := by unfold State.beginReceive State.unreliableStream; split <;> rfl
@[simp] theorem State.beginReceive_nameUnterminated (s : State) : (s.beginReceive).nameUnterminated = s.nameUnterminated := by unfold State.beginReceive State.unreliableStream; split <;> rfl
@[simp] theorem State.beginReceive_connUnreliable (s : State) : (s.beginReceive).connUnreliable = s.connUnreliable := by unfold State.beginReceive State.unreliableStream; split <;> rfl
@[simp] theorem State.beginReceive_opRefused (s : State) : (s.beginReceive).opRefused = s.opRefused := by unfold State.beginReceive State.unreliableStream; split <;> rfl
@[simp] theorem State.beginReceive_tmrArmed (s : State) : (s.beginReceive).tmrArmed = true := by unfold State.beginReceive State.unreliableStream; split <;> rfl
@[simp] theorem State.beginReceive_tmrExpired (s : State) : (s.beginReceive).tmrExpired = false := by unfold State.beginReceive State.unreliableStream; split <;> rfl
@[simp] theorem State.beginReceive_errKind (s : State) : (s.beginReceive).errKind = s.errKind := by unfold State.beginReceive State.unreliableStream; split <;> rfl
@[simp] theorem State.beginReceive_errSub (s : State) : (s.beginReceive).errSub = s.errSub := by unfold State.beginReceive State.unreliableStream; split <;> rfl
@[simp] theorem State.beginReceive_errExpected (s : State) : (s.beginReceive).errExpected = s.errExpected := by unfold State.beginReceive State.unreliableStream; split <;> rfl
@[simp] theorem State.beginReceive_errActual (s : State) : (s.beginReceive).errActual = s.errActual := by unfold State.beginReceive State.unreliableStream; split <;> rfl
@[simp] theorem State.beginReceive_errOpcode (s : State) : (s.beginReceive).errOpcode = s.errOpcode := by unfold State.beginReceive State.unreliableStream; split <;> rfl
@[simp] theorem State.beginReceive_errCsumExp (s : State) : (s.beginReceive).errCsumExp = s.errCsumExp := by unfold State.beginReceive State.unreliableStream; split <;> rfl
@[simp] theorem State.beginReceive_errCsumGot (s : State) : (s.beginReceive).errCsumGot = s.errCsumGot := by unfold State.beginReceive State.unreliableStream; split <;> rfl
@[simp] theorem State.beginReceive_cfgDisconnect (s : State) : (s.beginReceive).cfgDisconnect = s.cfgDisconnect := by unfold State.beginReceive State.unreliableStream; split <;> rfl
@[simp] theorem State.beginReceive_txbuf (s : State) : (s.beginReceive).txbuf = s.txbuf := by unfold State.beginReceive State.unreliableStream; split <;> rfl
@[simp] theorem State.beginReceive_rxhdr (s : State) : (s.beginReceive).rxhdr = s.rxhdr := by unfold State.beginReceive State.unreliableStream; split <;> rfl
@[simp] theorem State.beginReceive_rxbody (s : State) : (s.beginReceive).rxbody = s.rxbody := by unfold State.beginReceive State.unreliableStream; split <;> rfl
@[simp] theorem State.beginReceive_rnt (s : State) : (s.beginReceive).rnt = s.rnt := by unfold State.beginReceive State.unreliableStream; split <;> rfl
@[simp] theorem State.beginReceive_lnt (s : State) : (s.beginReceive).lnt = s.lnt := by unfold State.beginReceive State.unreliableStream; split <;> rfl
@[simp] theorem State.beginReceive_txs (s : State) : (s.beginReceive).txs = s.txs := by unfold State.beginReceive State.unreliableStream; split <;> rfl
@[simp] theorem State.beginReceive_rxs (s : State) : (s.beginReceive).rxs = if s.connUnreliable then Config.freeStream s.freeCtr else s.rxs := by unfold State.beginReceive State.unreliableStream; split <;> rfl
@[simp] theorem State.beginReceive_closed (s : State) : (s.beginReceive).closed = s.closed := by unfold State.beginReceive State.unreliableStream; split <;> rfl
@[simp] theorem State.beginReceive_txStalled (s : State) : (s.beginReceive).txStalled = s.txStalled := by unfold State.beginReceive State.unreliableStream; split <;> rfl
@[simp] theorem State.beginReceive_inputs (s : State) : (s.beginReceive).inputs = s.inputs := by unfold State.beginReceive State.unreliableStream; split <;> rfl
@[simp] theorem State.beginReceive_freeCtr (s : State) : (s.beginReceive).freeCtr = if s.connUnreliable then s.freeCtr + 1 else s.freeCtr := by unfold State.beginReceive State.unreliableStream; split <;> rfl

/-! ## State.copyBody -/

@[simp] theorem State.copyBody_op (s : State) : (s.copyBody).op = s.op := by cases h : s.argExp <;> simp [State.copyBody, h]
@[simp] theorem State.copyBody_argCmd (s : State) : (s.copyBody).argCmd = s.argCmd := by cases h : s.argExp <;> simp [State.copyBody, h]
@[simp] theorem State.copyBody_argBody (s : State) : (s.copyBody).argBody = s.argBody := by cases h : s.argExp <;> simp [State.copyBody, h]
@[simp] theorem State.copyBody_argExp (s : State) : (s.copyBody).argExp = s.argExp := by cases h : s.argExp <;> simp [State.copyBody, h]
@[simp] theorem State.copyBody_st (s : State) : (s.copyBody).st = s.st := by cases h : s.argExp <;> simp [State.copyBody, h]
@[simp] theorem State.copyBody_seqOp (s : State) : (s.copyBody).seqOp = s.seqOp := by cases h : s.argExp <;> simp [State.copyBody, h]
@[simp] theorem State.copyBody_seqStep (s : State) : (s.copyBody).seqStep = s.seqStep := by cases h : s.argExp <;> simp [State.copyBody, h]
@[simp] theorem State.copyBody_txlen (s : State) : (s.copyBody).txlen = s.txlen := by cases h : s.argExp <;> simp [State.copyBody, h]
@[simp] theorem State.copyBody_txcnt (s : State) : (s.copyBody).txcnt = s.txcnt := by cases h : s.argExp <;> simp [State.copyBody, h]
@[simp] theorem State.copyBody_rxcnt (s : State) : (s.copyBody).rxcnt = s.rxcnt := by cases h : s.argExp <;> simp [State.copyBody, h]
@[simp] theorem State.copyBody_hdrCmd (s : State) : (s.copyBody).hdrCmd = s.hdrCmd := by cases h : s.argExp <;> simp [State.copyBody, h]
@[simp] theorem State.copyBody_hdrLen (s : State) : (s.copyBody).hdrLen = s.hdrLen := by cases h : s.argExp <;> simp [State.copyBody, h]
@[simp] theorem State.copyBody_hdrCsum (s : State) : (s.copyBody).hdrCsum = s.hdrCsum := by cases h : s.argExp <;> simp [State.copyBody, h]
@[simp] theorem State.copyBody_sum (s : State) : (s.copyBody).sum = s.sum := by cases h : s.argExp <;> simp [State.copyBody, h]
@[simp] theorem State.copyBody_rntValid (s : State) : (s.copyBody).rntValid = (s.rntValid || s.argExp == .rnt) := by cases h : s.argExp <;> simp [State.copyBody, h]
@[simp] theorem State.copyBody_lntValid (s : State) : (s.copyBody).lntValid = s.lntValid := by cases h : s.argExp <;> simp [State.copyBody, h]
@[simp] theorem State.copyBody_nameUnterminated (s : State) : (s.copyBody).nameUnterminated = s.nameUnterminated := by cases h : s.argExp <;> simp [State.copyBody, h]
@[simp] theorem State.copyBody_connUnreliable (s : State) : (s.copyBody).connUnreliable = s.connUnreliable := by cases h : s.argExp <;> simp [State.copyBody, h]
@[simp] theorem State.copyBody_opRefused (s : State) : (s.copyBody).opRefused = s.opRefused := by cases h : s.argExp <;> simp [State.copyBody, h]
@[simp] theorem State.copyBody_tmrArmed (s : State) : (s.copyBody).tmrArmed = s.tmrArmed := by cases h : s.argExp <;> simp [State.copyBody, h]
@[simp] theorem State.copyBody_tmrExpired (s : State) : (s.copyBody).tmrExpired = s.tmrExpired := by cases h : s.argExp <;> simp [State.copyBody, h]
@[simp] theorem State.copyBody_errKind (s : State) : (s.copyBody).errKind = s.errKind := by cases h : s.argExp <;> simp [State.copyBody, h]
@[simp] theorem State.copyBody_errSub (s : State) : (s.copyBody).errSub = s.errSub := by cases h : s.argExp <;> simp [State.copyBody, h]
@[simp] theorem State.copyBody_errExpected (s : State) : (s.copyBody).errExpected = s.errExpected := by cases h : s.argExp <;> simp [State.copyBody, h]
@[simp] theorem State.copyBody_errActual (s : State) : (s.copyBody).errActual = s.errActual := by cases h : s.argExp <;> simp [State.copyBody, h]
@[simp] theorem State.copyBody_errOpcode (s : State) : (s.copyBody).errOpcode = s.errOpcode := by cases h : s.argExp <;> simp [State.copyBody, h]
@[simp] theorem State.copyBody_errCsumExp (s : State) : (s.copyBody).errCsumExp = s.errCsumExp := by cases h : s.argExp <;> simp [State.copyBody, h]
@[simp] theorem State.copyBody_errCsumGot (s : State) : (s.copyBody).errCsumGot = s.errCsumGot := by cases h : s.argExp <;> simp [State.copyBody, h]
@[simp] theorem State.copyBody_cfgDisconnect (s : State) : (s.copyBody).cfgDisconnect = s.cfgDisconnect := by cases h : s.argExp <;> simp [State.copyBody, h]
@[simp] theorem State.copyBody_txbuf (s : State) : (s.copyBody).txbuf = s.txbuf := by cases h : s.argExp <;> simp [State.copyBody, h]
@[simp] theorem State.copyBody_rxhdr (s : State) : (s.copyBody).rxhdr = s.rxhdr := by cases h : s.argExp <;> simp [State.copyBody, h]
@[simp] theorem State.copyBody_rxbody (s : State) : (s.copyBody).rxbody = s.rxbody := by cases h : s.argExp <;> simp [State.copyBody, h]
@[simp] theorem State.copyBody_rnt (s : State) : (s.copyBody).rnt = if s.argExp = .rnt then s.rxbody else s.rnt := by cases h : s.argExp <;> simp [State.copyBody, h]
@[simp] theorem State.copyBody_lnt (s : State) : (s.copyBody).lnt = s.lnt := by cases h : s.argExp <;> simp [State.copyBody, h]
@[simp] theorem State.copyBody_txs (s : State) : (s.copyBody).txs = s.txs := by cases h : s.argExp <;> simp [State.copyBody, h]
@[simp] theorem State.copyBody_rxs (s : State) : (s.copyBody).rxs = s.rxs := by cases h : s.argExp <;> simp [State.copyBody, h]
@[simp] theorem State.copyBody_closed (s : State) : (s.copyBody).closed = s.closed := by cases h : s.argExp <;> simp [State.copyBody, h]
@[simp] theorem State.copyBody_txStalled (s : State) : (s.copyBody).txStalled = s.txStalled := by cases h : s.argExp <;> simp [State.copyBody, h]
@[simp] theorem State.copyBody_inputs (s : State) : (s.copyBody).inputs = s.inputs := by cases h : s.argExp <;> simp [State.copyBody, h]
@[simp] theorem State.copyBody_freeCtr (s : State) : (s.copyBody).freeCtr = s.freeCtr := by cases h : s.argExp <;> simp [State.copyBody, h]

/-! ## State.expire -/

@[simp] theorem State.expire_op (s : State) : (s.expire).op = s.op := by unfold State.expire; split <;> simp_all
@[simp] theorem State.expire_argCmd (s : State) : (s.expire).argCmd = s.argCmd := by unfold State.expire; split <;> simp_all
@[simp] theorem State.expire_argBody (s : State) : (s.expire).argBody = s.argBody := by unfold State.expire; split <;> simp_all
@[simp] theorem State.expire_argExp (s : State) : (s.expire).argExp = s.argExp := by unfold State.expire; split <;> simp_all
@[simp] theorem State.expire_st (s : State) : (s.expire).st = s.st := by unfold State.expire; split <;> simp_all
@[simp] theorem State.expire_seqOp (s : State) : (s.expire).seqOp = s.seqOp := by unfold State.expire; split <;> simp_all
@[simp] theorem State.expire_seqStep (s : State) : (s.expire).seqStep = s.seqStep := by unfold State.expire; split <;> simp_all
@[simp] theorem State.expire_txlen (s : State) : (s.expire).txlen = s.txlen := by unfold State.expire; split <;> simp_all
@[simp] theorem State.expire_txcnt (s : State) : (s.expire).txcnt = s.txcnt := by unfold State.expire; split <;> simp_all
@[simp] theorem State.expire_rxcnt (s : State) : (s.expire).rxcnt = s.rxcnt := by unfold State.expire; split <;> simp_all
@[simp] theorem State.expire_hdrCmd (s : State) : (s.expire).hdrCmd = s.hdrCmd := by unfold State.expire; split <;> simp_all
@[simp] theorem State.expire_hdrLen (s : State) : (s.expire).hdrLen = s.hdrLen := by unfold State.expire; split <;> simp_all
@[simp] theorem State.expire_hdrCsum (s : State) : (s.expire).hdrCsum = s.hdrCsum := by unfold State.expire; split <;> simp_all
@[simp] theorem State.expire_sum (s : State) : (s.expire).sum = s.sum := by unfold State.expire; split <;> simp_all
@[simp] theorem State.expire_rntValid (s : State) : (s.expire).rntValid = s.rntValid := by unfold State.expire; split <;> simp_all
@[simp] theorem State.expire_lntValid (s : State) : (s.expire).lntValid = s.lntValid := by unfold State.expire; split <;> simp_all
@[simp] theorem State.expire_nameUnterminated (s : State) : (s.expire).nameUnterminated = s.nameUnterminated := by unfold State.expire; split <;> simp_all
@[simp] theorem State.expire_connUnreliable (s : State) : (s.expire).connUnreliable = s.connUnreliable := by unfold State.expire; split <;> simp_all
@[simp] theorem State.expire_opRefused (s : State) : (s.expire).opRefused = s.opRefused := by unfold State.expire; split <;> simp_all
@[simp] theorem State.expire_tmrArmed (s : State) : (s.expire).tmrArmed = s.tmrArmed := by unfold State.expire; split <;> simp_all
@[simp] theorem State.expire_tmrExpired (s : State) : (s.expire).tmrExpired = (s.tmrExpired || s.tmrArmed) := by unfold State.expire; split <;> simp_all
@[simp] theorem State.expire_errKind (s : State) : (s.expire).errKind = s.errKind := by unfold State.expire; split <;> simp_all
@[simp] theorem State.expire_errSub (s : State) : (s.expire).errSub = s.errSub := by unfold State.expire; split <;> simp_all
@[simp] theorem State.expire_errExpected (s : State) : (s.expire).errExpected = s.errExpected := by unfold State.expire; split <;> simp_all
@[simp] theorem State.expire_errActual (s : State) : (s.expire).errActual = s.errActual := by unfold State.expire; split <;> simp_all
@[simp] theorem State.expire_errOpcode (s : State) : (s.expire).errOpcode = s.errOpcode := by unfold State.expire; split <;> simp_all
@[simp] theorem State.expire_errCsumExp (s : State) : (s.expire).errCsumExp = s.errCsumExp := by unfold State.expire; split <;> simp_all
@[simp] theorem State.expire_errCsumGot (s : State) : (s.expire).errCsumGot = s.errCsumGot := by unfold State.expire; split <;> simp_all
@[simp] theorem State.expire_cfgDisconnect (s : State) : (s.expire).cfgDisconnect = s.cfgDisconnect := by unfold State.expire; split <;> simp_all
@[simp] theorem State.expire_txbuf (s : State) : (s.expire).txbuf = s.txbuf := by unfold State.expire; split <;> simp_all
@[simp] theorem State.expire_rxhdr (s : State) : (s.expire).rxhdr = s.rxhdr := by unfold State.expire; split <;> simp_all
@[simp] theorem State.expire_rxbody (s : State) : (s.expire).rxbody = s.rxbody := by unfold State.expire; split <;> simp_all
@[simp] theorem State.expire_rnt (s : State) : (s.expire).rnt = s.rnt := by unfold State.expire; split <;> simp_all
@[simp] theorem State.expire_lnt (s : State) : (s.expire).lnt = s.lnt := by unfold State.expire; split <;> simp_all
@[simp] theorem State.expire_txs (s : State) : (s.expire).txs = s.txs := by unfold State.expire; split <;> simp_all
@[simp] theorem State.expire_rxs (s : State) : (s.expire).rxs = s.rxs := by unfold State.expire; split <;> simp_all
@[simp] theorem State.expire_closed (s : State) : (s.expire).closed = s.closed := by unfold State.expire; split <;> simp_all
@[simp] theorem State.expire_txStalled (s : State) : (s.expire).txStalled = s.txStalled := by unfold State.expire; split <;> simp_all
@[simp] theorem State.expire_inputs (s : State) : (s.expire).inputs = s.inputs := by unfold State.expire; split <;> simp_all
@[simp] theorem State.expire_freeCtr (s : State) : (s.expire).freeCtr = s.freeCtr := by unfold State.expire; split <;> simp_all

end Sys2Proof.Machine
end

