-- ==== Sys2Proof/Laws/Ops.lean ====
section
/-! SUPPORT. What each shared operation can do, once: streams, failures, issuing, beginning the receive part. -/

namespace Sys2Proof.Machine

/-! ## The streams -/

theorem State.pushOutcome_closed {s : State} (c : StreamChoice) (h : s.closed = true) : s.pushOutcome c = .writeFail := by
  simp [State.pushOutcome, h]

theorem State.pushOutcome_open {s : State} (c : StreamChoice) (h : s.closed = false) :
    s.pushOutcome c = match c with
      | .ready => if s.txStalled then .notYet else .accepted
      | .fail => .writeFail
      | .blocked => .notYet := by
  cases c <;> simp [State.pushOutcome, h]

/-- A stalled stream accepts no push, whatever it offers for one turn. -/
theorem State.pushOutcome_stalled {s : State} (c : StreamChoice) (h : s.txStalled = true) : s.pushOutcome c ≠ .accepted := by
  cases c <;> simp [State.pushOutcome, h] <;> split <;> simp

/-- A push is not yet answered exactly on an open stream that is blocked for the turn, or stalled and not failing. -/
theorem State.pushOutcome_notYet {s : State} {c : StreamChoice} :
    s.pushOutcome c = .notYet ↔ s.closed = false ∧ (c = .blocked ∨ (c = .ready ∧ s.txStalled = true)) := by
  cases c <;> cases hc : s.closed <;> cases hs : s.txStalled <;> simp [State.pushOutcome, hc, hs]

theorem State.takeOutcome_expired {s : State} (c : StreamChoice) (h : s.tmrExpired = true) :
    s.takeOutcome c = .timeout := by
  simp [State.takeOutcome, h]

theorem State.takeOutcome_closed {s : State} (c : StreamChoice) (he : s.tmrExpired = false) (h : s.closed = true) :
    s.takeOutcome c = .readFail := by
  simp [State.takeOutcome, he, h]

theorem State.takeOutcome_fail {s : State} (he : s.tmrExpired = false) : s.takeOutcome .fail = .readFail := by
  simp [State.takeOutcome, he]

theorem State.takeOutcome_empty {s : State} {c : StreamChoice} (he : s.tmrExpired = false) (hc : s.closed = false)
    (hf : c ≠ .fail) (h : s.rxs = []) : s.takeOutcome c = .wait := by
  simp [State.takeOutcome, he, hc, hf, h]

theorem State.takeOutcome_cons {s : State} {c : StreamChoice} {b : Byte} {rest : List Byte} (he : s.tmrExpired = false)
    (hc : s.closed = false) (hf : c ≠ .fail) (h : s.rxs = b :: rest) : s.takeOutcome c = .byte b := by
  simp [State.takeOutcome, he, hc, hf, h]

/-- A byte is taken only before the deadline, and it is the head of RXS. -/
theorem State.takeOutcome_eq_byte {s : State} {c : StreamChoice} {b : Byte} (h : s.takeOutcome c = .byte b) :
    s.tmrExpired = false ∧ s.rxs = b :: s.rxs.tail := by
  unfold State.takeOutcome at h
  split_ifs at h with h1 h2 h3
  split at h
  · cases h
  · rename_i heq
    cases h
    simp [heq, h1]

/-- An undisturbed stream is not stalled: with no input left, TX_PROGRESS says just that. -/
theorem State.undisturbed_txStalled {s : State} (h : s.undisturbed) : s.txStalled = false := by
  obtain ⟨hi, hc, -, hp⟩ := h
  simpa [State.txProgress, pushesHang, hi, hc] using hp

/-! ## Failures -/

/-- A failure of the receive part changes the error registers, the transport mark, the timer, ST, and RXBODY. -/
theorem State.failedAs_raise (s : State) (f : Failure) (h : f ≠ .writeFail) :
    State.failedAs (s.writeContext f) (s.raise f) f.kind f.sub := by
  cases f <;>
    simp_all [State.failedAs, State.raise, State.writeContext, State.loseRxbody, Failure.inReceive, Failure.kind,
      Failure.sub]

/-- A write failure loses nothing but the exchange. -/
theorem State.raise_writeFail_eq (s : State) :
    s.raise .writeFail = { s with
      errKind := .transport, errSub := .writeFail, connUnreliable := true, tmrArmed := false, tmrExpired := false,
      st := .failed } := by
  simp [State.raise, State.writeContext, Failure.inReceive, Failure.kind, Failure.sub]

/-! ## Beginning the receive part -/

theorem State.receiveBegun_beginReceive (s : State) : State.receiveBegun s s.beginReceive := by
  unfold State.receiveBegun State.beginReceive State.unreliableStream
  split <;> simp_all

/-! ## Issuing -/

theorem State.issueCheck_busy {s : State} (r : Bool) (h : s.st.rest = false) : s.issueCheck r = some .busy := by
  simp [State.issueCheck, h]

theorem State.issueCheck_unwritten {s : State} (h : s.st.rest = true) (hv : s.rntValid = false) :
    s.issueCheck true = some .rntUnwritten := by
  simp [State.issueCheck, h, hv]

theorem State.issueCheck_accepts {s : State} {r : Bool} (h : s.st.rest = true) (hv : r = true → s.rntValid = true) :
    s.issueCheck r = none := by
  cases r <;> simp_all [State.issueCheck]

/-- ISSUE either refuses, changing OP_REFUSED only, or accepts in a rest state. -/
theorem State.issue_cases (s : State) (op : OpSel) (r : Bool) (start : State → State) :
    s.issue op r start = { s with opRefused := true } ∨
      (s.st.rest = true ∧ (r = true → s.rntValid = true) ∧ s.issue op r start = start (s.accept op)) := by
  unfold State.issue
  split
  · exact .inl rfl
  · rename_i h
    refine .inr ⟨?_, ?_, rfl⟩ <;> unfold State.issueCheck at h <;> split_ifs at h <;> simp_all

theorem State.issue_accepts {s : State} {r : Bool} (op : OpSel) (start : State → State) (h : s.st.rest = true)
    (hv : r = true → s.rntValid = true) : s.issue op r start = start (s.accept op) := by
  simp [State.issue, State.issueCheck_accepts h hv]

end Sys2Proof.Machine
end

