-- ==== Sys2Proof/Laws/PerInstr.lean ====
section
/-! SUPPORT. The form of every instruction's encoding, constructor by constructor: a wire command is presented as exactly the 8
bytes of a header that begins with its command, a host operation as a selector that is not reserved. -/

namespace Sys2Proof.Laws.EncodedForm

/-- A header of 8 bytes with an assigned command, or a port with an assigned selector (30_encoding.md R90, R97, R110). -/
def Statement (i : Instr) : Prop :=
  match encode i with
  | .header bs => bs.length = 8 ∧
      memRead16 bs 0 ∈ [0x0000#16, 0x0006#16, 0x000A#16, 0x0015#16, 0x1000#16, 0x1001#16, 0x0017#16, 0x0004#16]
  | .port p => p.op ∈ [1#4, 2#4, 3#4, 4#4, 5#4, 8#4, 9#4, 10#4]

/-- The command of an encoded header is the first of its fields. -/
theorem command_headerBytes (c l : U16) (k : U32) : memRead16 (headerBytes c l k) 0 = c := by
  have := (memRead_headerBytes c l k []).1
  rwa [List.append_nil] at this

theorem nop (l : U16) (k : U32) : Statement (.nop l k) :=
  ⟨rfl, by rw [command_headerBytes]; decide⟩

theorem ack (l : U16) (k : U32) : Statement (.ack l k) :=
  ⟨rfl, by rw [command_headerBytes]; decide⟩

theorem resetUnit (l : U16) (k : U32) : Statement (.resetUnit l k) :=
  ⟨rfl, by rw [command_headerBytes]; decide⟩

theorem nak (l : U16) (k : U32) : Statement (.nak l k) :=
  ⟨rfl, by rw [command_headerBytes]; decide⟩

theorem getChannelNames (l : U16) (k : U32) : Statement (.getChannelNames l k) :=
  ⟨rfl, by rw [command_headerBytes]; decide⟩

theorem setChannelNames (l : U16) (k : U32) : Statement (.setChannelNames l k) :=
  ⟨rfl, by rw [command_headerBytes]; decide⟩

theorem disconnect17 (l : U16) (k : U32) : Statement (.disconnect17 l k) :=
  ⟨rfl, by rw [command_headerBytes]; decide⟩

theorem disconnect04 (l : U16) (k : U32) : Statement (.disconnect04 l k) :=
  ⟨rfl, by rw [command_headerBytes]; decide⟩

theorem encodeNames (t : NameTable) : Statement (.encodeNames t) := by
  simp [Statement, encode, barePort]

theorem decodeNames : Statement .decodeNames := by
  simp [Statement, encode, barePort]

theorem send (cmd : U16) (body : Shape) : Statement (.send cmd body) := by
  simp [Statement, encode, barePort]

theorem receive (exp : Shape) : Statement (.receive exp) := by
  simp [Statement, encode, barePort]

theorem sendReceive (cmd : U16) (body exp : Shape) : Statement (.sendReceive cmd body exp) := by
  simp [Statement, encode, barePort]

theorem opReset : Statement .opReset := by
  simp [Statement, encode, barePort]

theorem opGetNames : Statement .opGetNames := by
  simp [Statement, encode, barePort]

theorem opSetNames (t : NameTable) : Statement (.opSetNames t) := by
  simp [Statement, encode, barePort]

end Sys2Proof.Laws.EncodedForm
end

