-- ==== Sys2Proof/Laws/Step.lean ====
section
/-! SUPPORT. One step and one engine turn, by the input and by the phase; runs composed. -/

namespace Sys2Proof.Machine

theorem step_nil {s : State} (h : s.inputs = []) : step s = engineStep .ready s := by
  simp [step, h]

theorem step_cons {s : State} {i : Input} {rest : List Input} (h : s.inputs = i :: rest) :
    step s = applyInput i { s with inputs := rest } := by
  simp [step, h]

theorem engineStep_rest {s : State} (c : StreamChoice) (h : s.st.rest = true) : engineStep c s = .next s := by
  cases hs : s.st <;> simp_all [engineStep, Phase.rest]

theorem engineStep_txBuild {s : State} (c : StreamChoice) (h : s.st = .txBuild) : engineStep c s = phaseTxBuild s := by
  simp [engineStep, h]

theorem engineStep_txSend {s : State} (c : StreamChoice) (h : s.st = .txSend) : engineStep c s = phaseTxSend c s := by
  simp [engineStep, h]

theorem engineStep_rxHdr {s : State} (c : StreamChoice) (h : s.st = .rxHdr) : engineStep c s = phaseRxHdr c s := by
  simp [engineStep, h]

theorem engineStep_rxValidate {s : State} (c : StreamChoice) (h : s.st = .rxValidate) :
    engineStep c s = phaseRxValidate s := by
  simp [engineStep, h]

theorem engineStep_rxBody {s : State} (c : StreamChoice) (h : s.st = .rxBody) : engineStep c s = phaseRxBody c s := by
  simp [engineStep, h]

theorem engineStep_rxVerify {s : State} (c : StreamChoice) (h : s.st = .rxVerify) :
    engineStep c s = phaseRxVerify s := by
  simp [engineStep, h]

theorem engineStep_rxDecode {s : State} (c : StreamChoice) (h : s.st = .rxDecode) :
    engineStep c s = phaseRxDecode s := by
  simp [engineStep, h]

theorem engineStep_nameEnc {s : State} (c : StreamChoice) (h : s.st = .nameEnc) : engineStep c s = phaseNameEnc s := by
  simp [engineStep, h]

theorem engineStep_nameDec {s : State} (c : StreamChoice) (h : s.st = .nameDec) : engineStep c s = phaseNameDec s := by
  simp [engineStep, h]

/-! ## What RX_VALIDATE answers -/

/-- The three cases of RX_VALIDATE: an ACK, a NAK, anything else. -/
theorem phaseRxValidate_cases (s : State) :
    (s.hdrCmd = Config.opAck ∧ phaseRxValidate s = execAck s.hdrLen s.hdrCsum s) ∨
    (s.hdrCmd = Config.opNak ∧ phaseRxValidate s = .next (s.raise (.deviceRejected Config.opNak))) ∨
    (s.hdrCmd ≠ Config.opAck ∧ s.hdrCmd ≠ Config.opNak ∧
      phaseRxValidate s = .next (s.raise (.unrecognized s.hdrCmd))) := by
  unfold phaseRxValidate decodeFields
  by_cases hA : s.hdrCmd = Config.opAck
  · left; refine ⟨hA, ?_⟩; rw [hA]; rfl
  · right
    by_cases hN : s.hdrCmd = Config.opNak
    · left; refine ⟨hN, ?_⟩; rw [hN]; rfl
    · right; refine ⟨hA, hN, ?_⟩
      rw [if_neg hA, if_neg hN]
      by_cases h0 : s.hdrCmd = Config.opNop
      · rw [if_pos h0, h0]; rfl
      by_cases h1 : s.hdrCmd = Config.opResetUnit
      · rw [if_neg h0, if_pos h1, h1]; rfl
      by_cases h2 : s.hdrCmd = Config.opGetChannelNames
      · rw [if_neg h0, if_neg h1, if_pos h2, h2]; rfl
      by_cases h3 : s.hdrCmd = Config.opSetChannelNames
      · rw [if_neg h0, if_neg h1, if_neg h2, if_pos h3, h3]; rfl
      by_cases h4 : s.hdrCmd = Config.opDisconnect17
      · rw [if_neg h0, if_neg h1, if_neg h2, if_neg h3, if_pos h4, h4]; rfl
      by_cases h5 : s.hdrCmd = Config.opDisconnect04
      · rw [if_neg h0, if_neg h1, if_neg h2, if_neg h3, if_neg h4, if_pos h5, h5]; rfl
      rw [if_neg h0, if_neg h1, if_neg h2, if_neg h3, if_neg h4, if_neg h5]

/-! ## Runs -/

/-- A run of `m + n` steps is a run of `m` and then one of `n`. -/
theorem run_add {m n : Nat} {s t : State} (h : Host.Core.run core m s = .next t) :
    Host.Core.run core (m + n) s = Host.Core.run core n t := by
  induction m generalizing s with
  | zero => cases h; rw [Nat.zero_add]
  | succ m ih =>
    rw [Nat.succ_add]
    simp only [Host.Core.run] at h ⊢
    split at h
    · exact ih h
    · cases h
    · cases h

/-- A state that a step leaves alone stays for ever. -/
theorem run_fixed {s : State} (h : step s = .next s) (n : Nat) : Host.Core.run core n s = .next s := by
  induction n with
  | zero => rfl
  | succ n ih =>
    have hc : Host.Core.step core s = .next s := h
    simpa only [Host.Core.run, hc] using ih

theorem run_succ {n : Nat} {s t : State} (h : step s = .next t) :
    Host.Core.run core (n + 1) s = Host.Core.run core n t := by
  have hc : Host.Core.step core s = .next t := h
  simp only [Host.Core.run, hc]

end Sys2Proof.Machine
end

