-- ==== Sys2Proof/Laws/Phases.lean ====
section
/-! SUPPORT. For each phase of the engine, and for an operation the host presents, everything a step that goes on can do. -/

namespace Sys2Proof.Machine

theorem phaseTxSend_cases {c : StreamChoice} {s t : State} (h : phaseTxSend c s = .next t) :
    (s.txcnt < s.txlen ∧ ∃ b, (bytesOf s.txbuf)[s.txcnt.toNat]? = some b ∧
      t = { s.pushByte b with txcnt := s.txcnt + 1 }) ∨
    (s.txcnt < s.txlen ∧ t = s.raise .writeFail) ∨
    (s.txcnt < s.txlen ∧ t = s) ∨
    (¬ s.txcnt < s.txlen ∧ s.op = .send ∧ t = { s with st := .done }) ∨
    (¬ s.txcnt < s.txlen ∧ s.op ≠ .send ∧ t = s.beginReceive) := by
  unfold phaseTxSend at h
  by_cases hlt : s.txcnt < s.txlen
  · rw [if_pos hlt] at h
    split at h
    · cases h
    · rename_i b hb
      split at h <;> cases h
      · exact .inl ⟨hlt, b, hb, rfl⟩
      · exact .inr (.inl ⟨hlt, rfl⟩)
      · exact .inr (.inr (.inl ⟨hlt, rfl⟩))
  · rw [if_neg hlt] at h
    by_cases ho : s.op = .send
    · rw [if_pos ho] at h; cases h
      exact .inr (.inr (.inr (.inl ⟨hlt, ho, rfl⟩)))
    · rw [if_neg ho] at h; cases h
      exact .inr (.inr (.inr (.inr ⟨hlt, ho, rfl⟩)))

theorem phaseRxHdr_cases {c : StreamChoice} {s t : State} (h : phaseRxHdr c s = .next t) :
    (s.rxcnt.toNat < 8 ∧ t = s.raise .timeout) ∨
    (s.rxcnt.toNat < 8 ∧ t = s.raise .readFail) ∨
    (s.rxcnt.toNat < 8 ∧ ∃ b, s.tmrExpired = false ∧ s.rxs = b :: s.rxs.tail ∧
      t = { s.dropHead with rxhdr := s.rxhdr.setIfInBounds s.rxcnt.toNat b, rxcnt := s.rxcnt + 1 }) ∨
    (s.rxcnt.toNat < 8 ∧ t = s) ∨
    (¬ s.rxcnt.toNat < 8 ∧
      t = { s with
        hdrCmd := (parseHeader (bytesOf s.rxhdr)).command
        hdrLen := (parseHeader (bytesOf s.rxhdr)).bodyLength
        hdrCsum := (parseHeader (bytesOf s.rxhdr)).checksum
        st := .rxValidate }) := by
  unfold phaseRxHdr at h
  by_cases hlt : s.rxcnt.toNat < Config.hdrSize
  · rw [if_pos hlt] at h
    split at h <;> cases h
    · exact .inl ⟨hlt, rfl⟩
    · exact .inr (.inl ⟨hlt, rfl⟩)
    · rename_i b hb
      obtain ⟨he, hr⟩ := State.takeOutcome_eq_byte hb
      exact .inr (.inr (.inl ⟨hlt, b, he, hr, rfl⟩))
    · exact .inr (.inr (.inr (.inl ⟨hlt, rfl⟩)))
  · rw [if_neg hlt] at h; cases h
    exact .inr (.inr (.inr (.inr ⟨hlt, rfl⟩)))

theorem phaseRxBody_cases {c : StreamChoice} {s t : State} (h : phaseRxBody c s = .next t) :
    (s.rxcnt < s.hdrLen ∧ t = s.raise .timeout) ∨
    (s.rxcnt < s.hdrLen ∧ t = s.raise .readFail) ∨
    (s.rxcnt < s.hdrLen ∧ s.rxcnt.toNat < 1536 ∧ ∃ b, s.tmrExpired = false ∧ s.rxs = b :: s.rxs.tail ∧
      t = { s.dropHead with rxbody := s.rxbody.setIfInBounds s.rxcnt.toNat b, rxcnt := s.rxcnt + 1 }) ∨
    (s.rxcnt < s.hdrLen ∧ t = s) ∨
    (¬ s.rxcnt < s.hdrLen ∧ t = { s with st := .rxVerify }) := by
  unfold phaseRxBody at h
  by_cases hlt : s.rxcnt < s.hdrLen
  · rw [if_pos hlt] at h
    split at h
    · cases h; exact .inl ⟨hlt, rfl⟩
    · cases h; exact .inr (.inl ⟨hlt, rfl⟩)
    · rename_i b hb
      split_ifs at h with hin
      · cases h
        obtain ⟨he, hr⟩ := State.takeOutcome_eq_byte hb
        exact .inr (.inr (.inl ⟨hlt, hin, b, he, hr, rfl⟩))
    · cases h; exact .inr (.inr (.inr (.inl ⟨hlt, rfl⟩)))
  · rw [if_neg hlt] at h; cases h
    exact .inr (.inr (.inr (.inr ⟨hlt, rfl⟩)))

theorem phaseRxVerify_cases {s t : State} (h : phaseRxVerify s = .next t) :
    s.hdrLen.toNat ≤ 1536 ∧
    (((verify (bytesOf s.rxhdr) ((bytesOf s.rxbody).take s.hdrLen.toNat)).ok = true ∧
      t = { s with
        sum := (verify (bytesOf s.rxhdr) ((bytesOf s.rxbody).take s.hdrLen.toNat)).sum
        st := .rxDecode }) ∨
    ((verify (bytesOf s.rxhdr) ((bytesOf s.rxbody).take s.hdrLen.toNat)).ok = false ∧ ∃ u e g,
      t = State.raise { s with sum := u } (.integrity e g))) := by
  unfold phaseRxVerify at h
  split_ifs at h with hl
  refine ⟨hl, ?_⟩
  dsimp only at h
  split_ifs at h with hv <;> cases h
  · exact .inl ⟨hv, rfl⟩
  · exact .inr ⟨by simpa using hv, _, _, _, rfl⟩

/-- The sequencer goes on in one of three ways. -/
theorem seqNext_cases {decoded : Bool} {s t : State} (h : seqNext decoded s = .next t) :
    (s.seqStep = .first ∧ s.seqOp = .getNames ∧ decoded = false ∧ t = { s with st := .nameDec }) ∨
    (s.seqStep = .first ∧ (s.seqOp ≠ .getNames ∨ decoded = true) ∧
      t = { s.latch s.cfgDisconnect.code .none .none with seqStep := .second, st := .txBuild }) ∨
    (s.seqStep = .second ∧ t = { s with lntValid := s.lntValid || s.seqOp == .getNames, st := .done }) := by
  unfold seqNext at h
  split at h
  · cases h
  · rename_i hs
    split_ifs at h with hg <;> cases h
    · exact .inl ⟨hs, hg.1, hg.2, rfl⟩
    · refine .inr (.inl ⟨hs, ?_, rfl⟩)
      by_cases hq : s.seqOp = .getNames
      · right; cases decoded <;> simp_all
      · exact .inl hq
  · rename_i hs
    cases h; exact .inr (.inr ⟨hs, rfl⟩)

theorem phaseRxDecode_cases {s t : State} (h : phaseRxDecode s = .next t) :
    (s.seqOp = .none ∧ t = { s.copyBody.disarm with st := .done }) ∨
    (s.seqOp ≠ .none ∧ seqNext false s.copyBody.disarm = .next t) := by
  unfold phaseRxDecode endExchange at h
  have e : s.copyBody.disarm.seqOp = s.seqOp := by simp
  dsimp only at h
  by_cases hq : s.seqOp = .none
  · rw [if_pos (e.trans hq)] at h; cases h
    exact .inl ⟨hq, rfl⟩
  · rw [if_neg fun h => hq (e.symm.trans h)] at h
    exact .inr ⟨hq, h⟩

theorem phaseNameEnc_cases {s t : State} (h : phaseNameEnc s = .next t) :
    (s.seqOp = .none ∧ t = { s with rnt := encodeTable s.lnt, rntValid := true, st := .done }) ∨
    (s.seqOp = .setNames ∧ t = { s with rnt := encodeTable s.lnt, rntValid := true, st := .txBuild }) := by
  unfold phaseNameEnc at h
  cases hq : s.seqOp <;> simp only [hq] at h <;> cases h
  · exact .inl ⟨rfl, rfl⟩
  · exact .inr ⟨rfl, rfl⟩

theorem phaseNameDec_cases {s t : State} (h : phaseNameDec s = .next t) :
    (s.seqOp = .none ∧ t = { s with
      lnt := decodeTable s.rnt, nameUnterminated := tableUnterminated s.rnt, lntValid := true, st := .done }) ∨
    (s.seqOp = .getNames ∧ seqNext true { s with
      lnt := decodeTable s.rnt, nameUnterminated := tableUnterminated s.rnt } = .next t) := by
  unfold phaseNameDec at h
  cases hq : s.seqOp <;> simp only [hq] at h
  · cases h; exact .inl ⟨rfl, rfl⟩
  · cases h
  · exact .inr ⟨rfl, h⟩
  · cases h

/-- What a presented operation can do: it is refused, or it is accepted in a rest state and starts. -/
theorem hostIssues_cases (p : Port) (s : State) :
    ∃ t, hostIssues p s = .next t ∧
    (t = { s with opRefused := true } ∨
    (s.st.rest = true ∧
      ((∃ names, t = { (s.accept .encodeNames).loadTable names with st := .nameEnc }) ∨
      (s.rntValid = true ∧ t = { s.accept .decodeNames with st := .nameDec }) ∨
      (∃ cmd body, (body = .rnt → s.rntValid = true) ∧
        t = { s.accept .send with argCmd := cmd, argBody := body, st := .txBuild }) ∨
      (∃ exp, t = State.beginReceive { s.accept .receive with argExp := exp }) ∨
      (∃ cmd body exp, (body = .rnt → s.rntValid = true) ∧
        t = { (s.accept .sendReceive).latch cmd body exp with st := .txBuild }) ∨
      (t = { (s.accept .opReset).latch Config.opResetUnit .none .none with st := .txBuild }) ∨
      (t = { (s.accept .opGetNames).latch Config.opGetChannelNames .none .rnt with
        lntValid := false, st := .txBuild }) ∨
      (∃ names, t = { ((s.accept .opSetNames).loadTable names).latch Config.opSetChannelNames .rnt .none with
        st := .nameEnc })))) := by
  unfold hostIssues decodePort
  split
  · rename_i i hi
    split at hi <;> cases hi
    all_goals
      refine ⟨_, rfl, ?_⟩
    · rcases State.issue_cases s .encodeNames false fun u => { u.loadTable p.table with st := .nameEnc } with h | ⟨h, -, e⟩
      · exact .inl h
      · exact .inr ⟨h, .inl ⟨_, e⟩⟩
    · rcases State.issue_cases s .decodeNames true fun u => { u with st := .nameDec } with h | ⟨h, hv, e⟩
      · exact .inl h
      · exact .inr ⟨h, .inr (.inl ⟨hv rfl, e⟩)⟩
    · rcases State.issue_cases s .send (shapeOfCode p.body == .rnt) fun u =>
          { u with argCmd := p.cmd, argBody := shapeOfCode p.body, st := .txBuild } with h | ⟨h, hv, e⟩
      · exact .inl h
      · exact .inr ⟨h, .inr (.inr (.inl ⟨_, _, fun hb => hv (by simp [hb]), e⟩))⟩
    · rcases State.issue_cases s .receive false fun u =>
          State.beginReceive { u with argExp := shapeOfCode p.exp } with h | ⟨h, -, e⟩
      · exact .inl h
      · exact .inr ⟨h, .inr (.inr (.inr (.inl ⟨_, e⟩)))⟩
    · rcases State.issue_cases s .sendReceive (shapeOfCode p.body == .rnt) fun u =>
          { u.latch p.cmd (shapeOfCode p.body) (shapeOfCode p.exp) with st := .txBuild } with h | ⟨h, hv, e⟩
      · exact .inl h
      · exact .inr ⟨h, .inr (.inr (.inr (.inr (.inl ⟨_, _, _, fun hb => hv (by simp [hb]), e⟩))))⟩
    · rcases State.issue_cases s .opReset false fun u =>
          { u.latch Config.opResetUnit .none .none with st := .txBuild } with h | ⟨h, -, e⟩
      · exact .inl h
      · exact .inr ⟨h, .inr (.inr (.inr (.inr (.inr (.inl e)))))⟩
    · rcases State.issue_cases s .opGetNames false fun u =>
          { u.latch Config.opGetChannelNames .none .rnt with lntValid := false, st := .txBuild } with h | ⟨h, -, e⟩
      · exact .inl h
      · exact .inr ⟨h, .inr (.inr (.inr (.inr (.inr (.inr (.inl e))))))⟩
    · rcases State.issue_cases s .opSetNames false fun u =>
          { (u.loadTable p.table).latch Config.opSetChannelNames .rnt .none with st := .nameEnc } with h | ⟨h, -, e⟩
      · exact .inl h
      · exact .inr ⟨h, .inr (.inr (.inr (.inr (.inr (.inr (.inr ⟨_, e⟩))))))⟩
  · exact ⟨_, rfl, .inl rfl⟩

end Sys2Proof.Machine
end

