-- ==== Sys2Proof/Laws/Turn.lean ====
section
/-! SUPPORT. Everything one engine turn can do, and everything one step can do, each as one list of cases: an invariant is
proved by going through the list, not by unfolding the step. -/

namespace Sys2Proof.Machine

/-- What one engine turn can make of a state. -/
inductive Turn (s : State) : State → Prop where
  | stay : Turn s s
  | build (h : s.st = .txBuild) :
      Turn s { s.putFrame (construct s.argCmd s.requestBody) with
        txlen := BitVec.ofNat 11 (construct s.argCmd s.requestBody).length
        txcnt := 0
        sum := sum8 ((construct s.argCmd s.requestBody).take 4 ++ (construct s.argCmd s.requestBody).drop 8)
        st := .txSend }
  | push (h : s.st = .txSend) (hlt : s.txcnt < s.txlen) (b : Byte) (hb : (bytesOf s.txbuf)[s.txcnt.toNat]? = some b) :
      Turn s { s.pushByte b with txcnt := s.txcnt + 1 }
  | writeFail (h : s.st = .txSend) : Turn s (s.raise .writeFail)
  | sent (h : s.st = .txSend) (hlt : ¬ s.txcnt < s.txlen) (ho : s.op = .send) : Turn s { s with st := .done }
  | listen (h : s.st = .txSend) (hlt : ¬ s.txcnt < s.txlen) (ho : s.op ≠ .send) : Turn s s.beginReceive
  | takeHeader (h : s.st = .rxHdr) (hlt : s.rxcnt.toNat < 8) (b : Byte) (he : s.tmrExpired = false)
      (hr : s.rxs = b :: s.rxs.tail) :
      Turn s { s.dropHead with rxhdr := s.rxhdr.setIfInBounds s.rxcnt.toNat b, rxcnt := s.rxcnt + 1 }
  | parsed (h : s.st = .rxHdr) (hlt : ¬ s.rxcnt.toNat < 8) :
      Turn s { s with
        hdrCmd := (parseHeader (bytesOf s.rxhdr)).command
        hdrLen := (parseHeader (bytesOf s.rxhdr)).bodyLength
        hdrCsum := (parseHeader (bytesOf s.rxhdr)).checksum
        st := .rxValidate }
  | accepted (h : s.st = .rxValidate) (hc : s.hdrCmd = Config.opAck) (hl : s.hdrLen = s.argExp.size) :
      Turn s { s with rxcnt := 0, st := .rxBody }
  | takeBody (h : s.st = .rxBody) (hlt : s.rxcnt < s.hdrLen) (hin : s.rxcnt.toNat < 1536) (b : Byte)
      (he : s.tmrExpired = false) (hr : s.rxs = b :: s.rxs.tail) :
      Turn s { s.dropHead with rxbody := s.rxbody.setIfInBounds s.rxcnt.toNat b, rxcnt := s.rxcnt + 1 }
  | bodyThere (h : s.st = .rxBody) (hlt : ¬ s.rxcnt < s.hdrLen) : Turn s { s with st := .rxVerify }
  | verified (h : s.st = .rxVerify)
      (hv : (verify (bytesOf s.rxhdr) ((bytesOf s.rxbody).take s.hdrLen.toNat)).ok = true) :
      Turn s { s with
        sum := (verify (bytesOf s.rxhdr) ((bytesOf s.rxbody).take s.hdrLen.toNat)).sum
        st := .rxDecode }
  | failed (f : Failure) (hf : f ≠ .writeFail) (u : U32) (h : s.st.receiving = true) (hd : s.st ≠ .rxDecode) :
      Turn s (State.raise { s with sum := u } f)
  | received (h : s.st = .rxDecode) (hq : s.seqOp = .none) : Turn s { s.copyBody.disarm with st := .done }
  | toDecode (h : s.st = .rxDecode) (hs : s.seqStep = .first) (hq : s.seqOp = .getNames) :
      Turn s { s.copyBody.disarm with st := .nameDec }
  | toDisconnect (h : s.st = .rxDecode) (hs : s.seqStep = .first) (hq : s.seqOp ≠ .none) (hg : s.seqOp ≠ .getNames) :
      Turn s { s.copyBody.disarm.latch s.cfgDisconnect.code .none .none with seqStep := .second, st := .txBuild }
  | sequenced (h : s.st = .rxDecode) (hs : s.seqStep = .second) (hq : s.seqOp ≠ .none) :
      Turn s { s.copyBody.disarm with lntValid := s.lntValid || s.seqOp == .getNames, st := .done }
  | encoded (h : s.st = .nameEnc) (hq : s.seqOp = .none) :
      Turn s { s with rnt := encodeTable s.lnt, rntValid := true, st := .done }
  | encodedToSend (h : s.st = .nameEnc) (hq : s.seqOp = .setNames) :
      Turn s { s with rnt := encodeTable s.lnt, rntValid := true, st := .txBuild }
  | decoded (h : s.st = .nameDec) (hq : s.seqOp = .none) :
      Turn s { s with
        lnt := decodeTable s.rnt, nameUnterminated := tableUnterminated s.rnt, lntValid := true, st := .done }
  | decodedToDisconnect (h : s.st = .nameDec) (hs : s.seqStep = .first) (hq : s.seqOp = .getNames) :
      Turn s { State.latch { s with lnt := decodeTable s.rnt, nameUnterminated := tableUnterminated s.rnt }
        s.cfgDisconnect.code .none .none with seqStep := .second, st := .txBuild }
  | decodedAtEnd (h : s.st = .nameDec) (hs : s.seqStep = .second) (hq : s.seqOp = .getNames) :
      Turn s { s with
        lnt := decodeTable s.rnt, nameUnterminated := tableUnterminated s.rnt, lntValid := true, st := .done }

/-- An engine turn that goes on is one of the list. -/
theorem turn_of_engineStep {c : StreamChoice} {s t : State} (h : engineStep c s = .next t) : Turn s t := by
  cases hs : s.st with
  | idle => rw [engineStep_rest c (by simp [hs, Phase.rest])] at h; cases h; exact .stay
  | done => rw [engineStep_rest c (by simp [hs, Phase.rest])] at h; cases h; exact .stay
  | failed => rw [engineStep_rest c (by simp [hs, Phase.rest])] at h; cases h; exact .stay
  | txBuild => rw [engineStep_txBuild c hs] at h; cases h; exact .build hs
  | txSend =>
    rw [engineStep_txSend c hs] at h
    rcases phaseTxSend_cases h with ⟨hlt, b, hb, rfl⟩ | ⟨-, rfl⟩ | ⟨-, rfl⟩ | ⟨hlt, ho, rfl⟩ | ⟨hlt, ho, rfl⟩
    · exact .push hs hlt b hb
    · exact .writeFail hs
    · exact .stay
    · exact .sent hs hlt ho
    · exact .listen hs hlt ho
  | rxHdr =>
    rw [engineStep_rxHdr c hs] at h
    rcases phaseRxHdr_cases h with ⟨-, rfl⟩ | ⟨-, rfl⟩ | ⟨hlt, b, he, hr, rfl⟩ | ⟨-, rfl⟩ | ⟨hlt, rfl⟩
    · exact .failed .timeout nofun s.sum (hs ▸ rfl) (hs ▸ nofun)
    · exact .failed .readFail nofun s.sum (hs ▸ rfl) (hs ▸ nofun)
    · exact .takeHeader hs hlt b he hr
    · exact .stay
    · exact .parsed hs hlt
  | rxValidate =>
    rw [engineStep_rxValidate c hs] at h
    rcases phaseRxValidate_cases s with ⟨hc, e⟩ | ⟨hc, e⟩ | ⟨-, -, e⟩ <;> rw [e] at h
    · unfold execAck at h
      split_ifs at h with hl <;> cases h
      · exact .accepted hs hc hl
      · exact Turn.failed (s := s) (.sizeMismatch s.argExp.size s.hdrLen) nofun s.sum (hs ▸ rfl) (hs ▸ nofun)
    · cases h; exact Turn.failed (s := s) (.deviceRejected Config.opNak) nofun s.sum (hs ▸ rfl) (hs ▸ nofun)
    · cases h; exact Turn.failed (s := s) (.unrecognized s.hdrCmd) nofun s.sum (hs ▸ rfl) (hs ▸ nofun)
  | rxBody =>
    rw [engineStep_rxBody c hs] at h
    rcases phaseRxBody_cases h with ⟨-, rfl⟩ | ⟨-, rfl⟩ | ⟨hlt, hin, b, he, hr, rfl⟩ | ⟨-, rfl⟩ | ⟨hlt, rfl⟩
    · exact .failed .timeout nofun s.sum (hs ▸ rfl) (hs ▸ nofun)
    · exact .failed .readFail nofun s.sum (hs ▸ rfl) (hs ▸ nofun)
    · exact .takeBody hs hlt hin b he hr
    · exact .stay
    · exact .bodyThere hs hlt
  | rxVerify =>
    rw [engineStep_rxVerify c hs] at h
    rcases phaseRxVerify_cases h with ⟨-, ⟨hv, rfl⟩ | ⟨-, u, e, g, rfl⟩⟩
    · exact .verified hs hv
    · exact Turn.failed (s := s) (.integrity e g) nofun u (hs ▸ rfl) (hs ▸ nofun)
  | rxDecode =>
    rw [engineStep_rxDecode c hs] at h
    rcases phaseRxDecode_cases h with ⟨hq, rfl⟩ | ⟨hq, h⟩
    · exact .received hs hq
    · rcases seqNext_cases h with ⟨h1, h2, -, rfl⟩ | ⟨h1, h2, rfl⟩ | ⟨h1, rfl⟩
      · exact .toDecode hs (by simpa using h1) (by simpa using h2)
      · have := Turn.toDisconnect hs (by simpa using h1) hq (by simpa using h2)
        simpa using this
      · have := Turn.sequenced hs (by simpa using h1) hq
        simpa using this
  | nameEnc =>
    rw [engineStep_nameEnc c hs] at h
    rcases phaseNameEnc_cases h with ⟨hq, rfl⟩ | ⟨hq, rfl⟩
    · exact .encoded hs hq
    · exact .encodedToSend hs hq
  | nameDec =>
    rw [engineStep_nameDec c hs] at h
    rcases phaseNameDec_cases h with ⟨hq, rfl⟩ | ⟨hq, h⟩
    · exact .decoded hs hq
    · rcases seqNext_cases h with ⟨-, -, hd, -⟩ | ⟨h1, -, rfl⟩ | ⟨h1, rfl⟩
      · cases hd
      · exact .decodedToDisconnect hs h1 hq
      · have := Turn.decodedAtEnd hs h1 hq
        simpa [hq] using this

/-- What one step can do, by the oldest input. -/
theorem step_cases {s t : State} (h : step s = .next t) :
    (s.inputs = [] ∧ Turn s t) ∨
    (∃ c rest, s.inputs = .engine c :: rest ∧ Turn { s with inputs := rest } t) ∨
    (∃ p rest, s.inputs = .host p :: rest ∧ hostIssues p { s with inputs := rest } = .next t) ∨
    (∃ bs rest, s.inputs = .peer bs :: rest ∧ t = { s with inputs := rest, rxs := s.rxs ++ bs }) ∨
    (∃ rest, s.inputs = .expire :: rest ∧ t = State.expire { s with inputs := rest }) ∨
    (∃ rest, s.inputs = .close :: rest ∧ t = { s with inputs := rest, closed := true }) ∨
    (∃ rest, s.inputs = .stall :: rest ∧ t = { s with inputs := rest, txStalled := true }) ∨
    (∃ rest, s.inputs = .resume :: rest ∧ t = { s with inputs := rest, txStalled := false }) ∨
    (∃ bs rest, s.inputs = .reset (some bs) :: rest ∧ t = State.resetFresh { s with inputs := rest } bs) ∨
    (∃ rest, s.inputs = .reset none :: rest ∧ t = State.resetReuse { s with inputs := rest }) := by
  cases hi : s.inputs with
  | nil =>
    rw [step_nil hi] at h
    exact .inl ⟨rfl, turn_of_engineStep h⟩
  | cons i rest =>
    rw [step_cons hi] at h
    cases i with
    | host p => exact .inr (.inr (.inl ⟨p, rest, rfl, h⟩))
    | peer bs => cases h; exact .inr (.inr (.inr (.inl ⟨bs, rest, rfl, rfl⟩)))
    | expire => cases h; exact .inr (.inr (.inr (.inr (.inl ⟨rest, rfl, rfl⟩))))
    | close => cases h; exact .inr (.inr (.inr (.inr (.inr (.inl ⟨rest, rfl, rfl⟩)))))
    | stall => cases h; exact .inr (.inr (.inr (.inr (.inr (.inr (.inl ⟨rest, rfl, rfl⟩))))))
    | resume => cases h; exact .inr (.inr (.inr (.inr (.inr (.inr (.inr (.inl ⟨rest, rfl, rfl⟩)))))))
    | reset fresh =>
      cases fresh with
      | some bs => cases h; exact .inr (.inr (.inr (.inr (.inr (.inr (.inr (.inr (.inl ⟨bs, rest, rfl, rfl⟩))))))))
      | none => cases h; exact .inr (.inr (.inr (.inr (.inr (.inr (.inr (.inr (.inr ⟨rest, rfl, rfl⟩))))))))
    | engine c => exact .inr (.inl ⟨c, rest, rfl, turn_of_engineStep h⟩)

end Sys2Proof.Machine
end

