-- ==== Sys2Proof/Tests/Slice0.lean ====
section
/-! SUPPORT. Tests with expected results from the spec's rules and vectors, and for every statement with hypotheses a witness
that meets them. -/

namespace Sys2Proof.Tests

open Sys2Proof Sys2Proof.Machine

/-- The reset state in another phase. -/
def stateIn (q : Phase) : State := { State.reset with st := q }

/-- Part of a step's next state. -/
def after {α : Type} (o : Host.Outcome State Fault Refusal) (f : State → α) : Option α :=
  match o with
  | .next t => some (f t)
  | .fault _ => none
  | .refused _ => none

/-- The table of the worked examples: channel 6 named HELLO and NICK (41_channel_name_codec.md R163). -/
def helloNick : NameTable :=
  emptyTable.set 6 ⟨[0x48, 0x45, 0x4C, 0x4C, 0x4F], [0x4E, 0x49, 0x43, 0x4B]⟩

/-! ## WellFormed -/

/-- A table with one line longer than LINE_IN_MAX. -/
def tooLong : NameTable :=
  emptyTable.set 0 ⟨List.replicate (Config.lineInMax + 1) 0x41, []⟩

theorem tooLong_not_wellFormed : tableWellFormed tooLong = false := by
  have h : ChannelName.wellFormed ⟨List.replicate (Config.lineInMax + 1) 0x41, []⟩ = false := by
    simp [ChannelName.wellFormed]
  rw [tableWellFormed, List.all_eq_false]
  refine ⟨⟨List.replicate (Config.lineInMax + 1) 0x41, []⟩, ?_, by rw [h]; decide⟩
  simp [tooLong, emptyTable, Vector.toList_set]

theorem test_wellFormed_encodeNames_refused : (Instr.encodeNames tooLong).wellFormed = false :=
  tooLong_not_wellFormed

theorem test_wellFormed_opSetNames_refused : (Instr.opSetNames tooLong).wellFormed = false :=
  tooLong_not_wellFormed

theorem test_wellFormed_second_line_refused :
    ChannelName.wellFormed ⟨[], List.replicate (Config.lineInMax + 1) 0x41⟩ = false := by
  simp [ChannelName.wellFormed]

/-- A line of exactly LINE_IN_MAX bytes is accepted. -/
theorem test_wellFormed_bound :
    ChannelName.wellFormed ⟨List.replicate Config.lineInMax 0x41, []⟩ = true := by
  simp [ChannelName.wellFormed]

/-! ## Decode: words written out from 30_encoding.md R90, R97, R104, R110 -/

theorem test_decode_nop : decodeTableWord 64
    0b0000000000000000000000000000000000000000000000000000000000000000 = some (.nop 0 0) := rfl

theorem test_decode_ack : decodeTableWord 64
    0b1111111111111111111111111111101000000000000000000000000000000110 = some (.ack 0 0xFFFFFFFA) := rfl

theorem test_decode_resetUnit : decodeTableWord 64
    0b1111111111111111111111111111011000000000000000000000000000001010 = some (.resetUnit 0 0xFFFFFFF6) := rfl

theorem test_decode_nak : decodeTableWord 64
    0b1111111111111111111111111110101100000000000000000000000000010101 = some (.nak 0 0xFFFFFFEB) := rfl

theorem test_decode_getChannelNames : decodeTableWord 64
    0b1111111111111111111111111111000000000000000000000001000000000000 = some (.getChannelNames 0 0xFFFFFFF0) := rfl

theorem test_decode_setChannelNames : decodeTableWord 64
    0b1111111111111111111111010101000000000110000000000001000000000001 =
      some (.setChannelNames 1536 0xFFFFFD50) := rfl

theorem test_decode_disconnect17 : decodeTableWord 64
    0b1111111111111111111111111110100100000000000000000000000000010111 = some (.disconnect17 0 0xFFFFFFE9) := rfl

theorem test_decode_disconnect04 : decodeTableWord 64
    0b1111111111111111111111111111110000000000000000000000000000000100 = some (.disconnect04 0 0xFFFFFFFC) := rfl

theorem test_decode_encodeNames : decodeTableWord 8 0b0001 = some (.encodeNames emptyTable) := rfl
theorem test_decode_decodeNames : decodeTableWord 8 0b0010 = some .decodeNames := rfl
theorem test_decode_send : decodeTableWord 8 0b0011 = some (.send 0 .none) := rfl
theorem test_decode_receive : decodeTableWord 8 0b0100 = some (.receive .none) := rfl
theorem test_decode_sendReceive : decodeTableWord 8 0b0101 = some (.sendReceive 0 .none .none) := rfl
theorem test_decode_opReset : decodeTableWord 8 0b1000 = some .opReset := rfl
theorem test_decode_opGetNames : decodeTableWord 8 0b1001 = some .opGetNames := rfl
theorem test_decode_opSetNames : decodeTableWord 8 0b1010 = some (.opSetNames emptyTable) := rfl

/-- A byte-swapped ACK, and a value one above it, are unassigned (R97: mask 0xFFFF). -/
theorem test_decode_unassigned :
    decodeHeader [0x00, 0x06, 0, 0, 0, 0, 0, 0] = .rejected (.unassignedOpcode 0x0600) ∧
    decodeHeader [0x07, 0x00, 0, 0, 0, 0, 0, 0] = .rejected (.unassignedOpcode 0x0007) := ⟨rfl, rfl⟩

/-- The reserved selectors, the last one below 16. -/
theorem test_decode_reserved : decodePort (barePort 15#4) = .rejected (.reservedSelector 15#4) ∧
    decodePort (barePort 0#4) = .rejected (.reservedSelector 0#4) := ⟨rfl, rfl⟩

/-- The command map has no two rows with one value. -/
theorem test_opcodes_distinct :
    [Config.opNop, Config.opAck, Config.opResetUnit, Config.opNak, Config.opGetChannelNames, Config.opSetChannelNames,
      Config.opDisconnect17, Config.opDisconnect04].Nodup := by decide

/-! ## The pure functions, on the spec's examples -/

/-- R130, R132. -/
theorem test_sum_and_checksum : sum8 [0x0A, 0, 0, 0] = 10 ∧ checksum 10 = 0xFFFFFFF6 := by decide

/-- R92: 0x1001, 1536 and 0xFFFFFD50 in wire order. -/
theorem test_bytes : bytes16 0x1001 = [0x01, 0x10] ∧ bytes16 1536 = [0x00, 0x06] ∧
    bytes32 0xFFFFFD50 = [0x50, 0xFD, 0xFF, 0xFF] := by decide

/-- R138. -/
theorem test_parseHeader : parseHeader [0x06, 0x00, 0x00, 0x06, 0x5B, 0xFD, 0xFF, 0xFF] = ⟨0x0006, 1536, 0xFFFFFD5B⟩ := by
  decide

/-- R141, and one checksum byte changed. -/
theorem test_verify : (verify [0x06, 0, 0, 0, 0xFA, 0xFF, 0xFF, 0xFF] []).ok = true ∧
    (verify [0x06, 0, 0, 0, 0xFB, 0xFF, 0xFF, 0xFF] []).ok = false := by decide

/-- R161 (b), (c), (d), (e). -/
theorem test_encodeLine :
    encodeLine [0x41, 0x42, 0x43, 0x44, 0x45, 0x46, 0x47, 0x48, 0x49] =
      [0x41, 0x42, 0x43, 0x44, 0x45, 0x46, 0x47, 0x48, 0, 0, 0, 0] ∧
    encodeLine [0x80, 0xFF] = [0x80, 0xFF, 0, 0, 0, 0, 0, 0, 0, 0, 0, 0] ∧
    encodeLine [0x41, 0x42, 0, 0x43, 0x44] = [0x41, 0x42, 0, 0x43, 0x44, 0, 0, 0, 0, 0, 0, 0] := by decide

/-- R165, R166: bytes after the first zero are ignored, an unterminated field is cut at 8. -/
theorem test_decodeLine :
    decodeLine [0x41, 0x00, 0x42, 0x43, 0, 0, 0, 0, 0, 0, 0, 0] = [0x41] ∧
    decodeLine [1, 2, 3, 4, 5, 6, 7, 8, 9, 0, 0, 0] = [1, 2, 3, 4, 5, 6, 7, 8] ∧
    lineUnterminated [1, 2, 3, 4, 5, 6, 7, 8, 9, 0, 0, 0] = true ∧
    lineUnterminated [1, 2, 3, 4, 5, 6, 7, 8, 0, 9, 9, 9] = false := by decide

/-- R163's example, and the checksum of its SET_CHANNEL_NAMES frame (R246). -/
theorem test_encodeTable_example :
    ((bytesOf (encodeTable helloNick)).drop 144).take 24 =
      [0x48, 0x45, 0x4C, 0x4C, 0x4F, 0, 0, 0, 0, 0, 0, 0, 0x4E, 0x49, 0x43, 0x4B, 0, 0, 0, 0, 0, 0, 0, 0] ∧
    (construct Config.opSetChannelNames (bytesOf (encodeTable helloNick))).take 8 =
      [0x01, 0x10, 0x00, 0x06, 0x50, 0xFD, 0xFF, 0xFF] := by
  decide +kernel

/-! ## One step of each instruction -/

theorem test_nop_unrecognized :
    after (exec (.nop 0 0) (stateIn .rxValidate)) (fun t => (t.st, t.errKind, t.errSub, t.errOpcode)) =
      some (.failed, .protocolShape, .unrecognized, 0x0000#16) := rfl

theorem test_ack_accepted :
    after (exec (.ack 0 0xFFFFFFFA) (stateIn .rxValidate)) (fun t => (t.st, t.rxcnt, t.errKind)) =
      some (.rxBody, 0#16, .none) := rfl

/-- R204: an ACK with length 1536 when nothing was expected. -/
theorem test_ack_sizeMismatch :
    after (exec (.ack 1536 0) (stateIn .rxValidate)) (fun t => (t.st, t.errKind, t.errSub, t.errExpected, t.errActual)) =
      some (.failed, .protocolShape, .sizeMismatch, 0#16, 1536#16) := rfl

theorem test_resetUnit_unrecognized :
    after (exec (.resetUnit 0 0) (stateIn .rxValidate)) (fun t => (t.st, t.errSub, t.errOpcode)) =
      some (.failed, .unrecognized, 0x000A#16) := rfl

/-- R205: a NAK with an odd length. -/
theorem test_nak_rejected :
    after (exec (.nak 77 0) (stateIn .rxValidate))
      (fun t => (t.st, t.errKind, t.errSub, t.errOpcode, t.connUnreliable)) =
      some (.failed, .deviceRejected, .none, 0x0015#16, false) := rfl

theorem test_getChannelNames_unrecognized :
    after (exec (.getChannelNames 0 0) (stateIn .rxValidate)) (fun t => (t.st, t.errSub, t.errOpcode)) =
      some (.failed, .unrecognized, 0x1000#16) := rfl

theorem test_setChannelNames_unrecognized :
    after (exec (.setChannelNames 1536 0) (stateIn .rxValidate)) (fun t => (t.st, t.errSub, t.errOpcode)) =
      some (.failed, .unrecognized, 0x1001#16) := rfl

theorem test_disconnect17_unrecognized :
    after (exec (.disconnect17 0 0) (stateIn .rxValidate)) (fun t => (t.st, t.errSub, t.errOpcode)) =
      some (.failed, .unrecognized, 0x0017#16) := rfl

theorem test_disconnect04_unrecognized :
    after (exec (.disconnect04 0 0) (stateIn .rxValidate)) (fun t => (t.st, t.errSub, t.errOpcode)) =
      some (.failed, .unrecognized, 0x0004#16) := rfl

theorem test_encodeNames_starts :
    after (exec (.encodeNames helloNick) State.reset) (fun t => (t.st, t.op, t.lntValid, t.rntValid)) =
      some (.nameEnc, .encodeNames, true, false) := rfl

/-- R171: refused while RNT was not written. -/
theorem test_decodeNames_refused :
    after (exec .decodeNames State.reset) (fun t => (t.st, t.op, t.opRefused)) = some (.idle, .none, true) := rfl

theorem test_send_starts :
    after (exec (.send 0x1234 .none) (stateIn .failed)) (fun t => (t.st, t.op, t.argCmd)) =
      some (.txBuild, .send, 0x1234#16) := rfl

/-- R190: an operation while BUSY is refused and the one in progress goes on. -/
theorem test_send_refused_busy :
    after (exec (.send 0x1234 .none) (stateIn .rxBody)) (fun t => (t.st, t.opRefused, t.argCmd)) =
      some (.rxBody, true, 0#16) := rfl

theorem test_receive_arms :
    after (exec (.receive .rnt) State.reset) (fun t => (t.st, t.argExp, t.tmrArmed, t.tmrExpired, t.rxcnt)) =
      some (.rxHdr, .rnt, true, false, 0#16) := rfl

theorem test_sendReceive_refused_unwritten :
    after (exec (.sendReceive 0x1001 .rnt .none) State.reset) (fun t => (t.st, t.opRefused)) = some (.idle, true) := rfl

theorem test_opReset_starts :
    after (exec .opReset State.reset) (fun t => (t.st, t.argCmd, t.argBody, t.argExp, t.seqOp, t.seqStep)) =
      some (.txBuild, 0x000A#16, .none, .none, .reset, .first) := rfl

theorem test_opGetNames_starts :
    after (exec .opGetNames { State.reset with lntValid := true })
      (fun t => (t.st, t.argCmd, t.argBody, t.argExp, t.seqOp, t.lntValid)) =
      some (.txBuild, 0x1000#16, .none, .rnt, .getNames, false) := rfl

theorem test_opSetNames_starts :
    after (exec (.opSetNames helloNick) State.reset)
      (fun t => (t.st, t.argCmd, t.argBody, t.argExp, t.seqOp, t.lntValid)) =
      some (.nameEnc, 0x1001#16, .rnt, .none, .setNames, true) := rfl

/-- The step runs a placed header, and a placed selector, as the first instruction after reset. -/
theorem test_withFetchWord :
    after (step (State.reset.withFetchWord 64 0xFFFFFFFA00000006)) (fun t => (t.st, t.hdrCmd, t.hdrCsum)) =
      some (.rxBody, 0x0006#16, 0xFFFFFFFA#32) ∧
    after (step (State.reset.withFetchWord 8 8)) (fun t => (t.st, t.seqOp)) = some (.txBuild, .reset) := ⟨rfl, rfl⟩

/-! ## Witnesses: states and operands that meet the hypotheses of a statement -/

theorem witness_EncodeOfDecodedHeaderIsItsBytes :
    decodeHeader [0x06, 0, 0, 0, 0xFA, 0xFF, 0xFF, 0xFF, 0x99] = .instr (.ack 0 0xFFFFFFFA) ∧
    decodeHeader [0x00, 0x10, 1, 0, 0, 0, 0, 0] = .instr (.getChannelNames 1 0) ∧
    ([0x06, 0, 0, 0, 0xFA, 0xFF, 0xFF] : List Byte).length < 8 := ⟨rfl, rfl, by decide⟩

theorem witness_CommandMapIsTheTable :
    0xFFFF#16 ∉ [0x0000#16, 0x0006#16, 0x000A#16, 0x0015#16, 0x1000#16, 0x1001#16, 0x0017#16, 0x0004#16] ∧
    0x0001#16 ∉ [0x0000#16, 0x0006#16, 0x000A#16, 0x0015#16, 0x1000#16, 0x1001#16, 0x0017#16, 0x0004#16] := by decide

theorem witness_SelectorMapIsTheTable :
    (∀ o : BitVec 4, (barePort o).op = o) ∧
    (∀ o ∈ [3#4, 5#4], ∀ b e : BitVec 1, ∃ p : Port, p.op = o ∧ p.body = b ∧ p.exp = e) ∧
    (∀ o ∈ [0#4, 6#4, 7#4, 11#4, 12#4, 13#4, 14#4, 15#4],
      (barePort o).op ∈ [0#4, 6#4, 7#4, 11#4, 12#4, 13#4, 14#4, 15#4]) :=
  ⟨fun _ => rfl, fun o _ b e => ⟨⟨o, 0, b, e, emptyTable⟩, rfl, rfl, rfl⟩, fun _ h => h⟩

theorem witness_FrameSumNeverWraps :
    (List.replicate 65539 (0xFF : Byte)).length ≤ 65539 ∧ (List.replicate 1540 (0xFF : Byte)).length ≤ 1540 ∧
    (List.replicate 65535 (0xFF : Byte)).length ≤ 65535 := by
  simp only [List.length_replicate]; decide

theorem witness_ChecksumIsNegation : (1 : U32) ≠ 0 ∧ (16712445 : U32).toNat ≤ 16712445 := by decide

theorem witness_ConstructLaysOutTheFrame :
    (List.replicate 65535 (0xFF : Byte)).length ≤ 65535 ∧ ([] : List Byte).length ≤ 65535 := by
  simp only [List.length_replicate]; decide

/-- The table's first and last row. -/
theorem witness_CanonicalFramesAreTheTable :
    let rows : List (U16 × List Byte × U32 × U32 × Nat) :=
      [(Config.opNop, [0x00#8, 0x00, 0x00, 0x00, 0x00, 0x00, 0x00, 0x00], 0#32, 0x00000000#32, 0x0000000000000000),
        (Config.opAck, [0x06, 0x00, 0x00, 0x00, 0xFA, 0xFF, 0xFF, 0xFF], 6, 0xFFFFFFFA, 0xFFFFFFFA00000006),
        (Config.opResetUnit, [0x0A, 0x00, 0x00, 0x00, 0xF6, 0xFF, 0xFF, 0xFF], 10, 0xFFFFFFF6, 0xFFFFFFF60000000A),
        (Config.opNak, [0x15, 0x00, 0x00, 0x00, 0xEB, 0xFF, 0xFF, 0xFF], 21, 0xFFFFFFEB, 0xFFFFFFEB00000015),
        (Config.opGetChannelNames, [0x00, 0x10, 0x00, 0x00, 0xF0, 0xFF, 0xFF, 0xFF], 16, 0xFFFFFFF0,
          0xFFFFFFF000001000),
        (DisconnectOpcode.v0017.code, [0x17, 0x00, 0x00, 0x00, 0xE9, 0xFF, 0xFF, 0xFF], 23, 0xFFFFFFE9,
          0xFFFFFFE900000017),
        (DisconnectOpcode.v0004.code, [0x04, 0x00, 0x00, 0x00, 0xFC, 0xFF, 0xFF, 0xFF], 4, 0xFFFFFFFC,
          0xFFFFFFFC00000004)];
    (Config.opNop, [0x00#8, 0x00, 0x00, 0x00, 0x00, 0x00, 0x00, 0x00], 0#32, 0x00000000#32, 0x0000000000000000) ∈ rows ∧
    (DisconnectOpcode.v0004.code, [0x04#8, 0x00, 0x00, 0x00, 0xFC, 0xFF, 0xFF, 0xFF], 4#32, 0xFFFFFFFC#32,
      0xFFFFFFFC00000004) ∈ rows := by decide

theorem witness_ParseHeaderInvertsHeaderBytes : ([0x06, 0, 0, 0, 0xFA, 0xFF, 0xFF, 0xFF] : List Byte).length = 8 := rfl

theorem witness_ParseOfConstructRoundTrips : (List.replicate 65535 (0x00 : Byte)).length ≤ 65535 := by
  simp only [List.length_replicate]; decide

theorem witness_VerifyIsTheChecksumInvariant : ([0x06, 0, 0, 0, 0xFA, 0xFF, 0xFF, 0xFF] : List Byte).length = 8 := rfl

/-- The header and body of one frame, for the three clauses at their first and last index. -/
theorem witness_SingleByteCorruptionIsDetected :
    let f := construct 0x1001 [0x01, 0x02];
    (f.take 8).length = 8 ∧ (verify (f.take 8) [0x01, 0x02]).ok = true ∧
    ([0x01, 0x02] : List Byte)[0]? ≠ some 0x03 ∧ ([0x01, 0x02] : List Byte)[1]? ≠ some 0x03 ∧
    (f.take 8)[0]? ≠ some 0x03 ∧ (f.take 8)[7]? ≠ some 0x03 ∧
    (((f.take 8).take 4 ++ [0x02, 0x01]).map BitVec.toNat).sum =
      (((f.take 8).take 4 ++ [0x01, 0x02]).map BitVec.toNat).sum := by decide

theorem witness_EncodeLineIsTheRecord :
    ([0x41, 0x42, 0x43, 0x44, 0x45, 0x46, 0x47, 0x48, 0x49] : Line).take 8 =
      ([0x41, 0x42, 0x43, 0x44, 0x45, 0x46, 0x47, 0x48] : Line).take 8 ∧
    7 < min ([0x41, 0x42, 0x43, 0x44, 0x45, 0x46, 0x47, 0x48] : Line).length 8 ∧
    min ([] : Line).length 8 ≤ 11 ∧ 11 < 12 := by decide

/-- The first zero at 0 and at 7, none among 8 with the ninth zero and with it not zero. -/
theorem witness_DecodeLineScansForTheFirstZero :
    (let r : List Byte := [0, 2, 3, 4, 5, 6, 7, 8, 9, 0, 0, 0];
      r.length = 12 ∧ r[0]? = some 0) ∧
    (let r : List Byte := [1, 2, 3, 4, 5, 6, 7, 0, 9, 0, 0, 0];
      r.length = 12 ∧ r[7]? = some 0 ∧ ∀ i, i < 7 → r[i]? ≠ some 0) ∧
    (let r : List Byte := [1, 2, 3, 4, 5, 6, 7, 8, 0, 0, 0, 0];
      r.length = 12 ∧ ∀ i, i < 8 → r[i]? ≠ some 0) ∧
    (let r : List Byte := [1, 2, 3, 4, 5, 6, 7, 8, 9, 0, 0, 0];
      r.length = 12 ∧ (∀ i, i < 8 → r[i]? ≠ some 0) ∧ r[8]? ≠ some 0) := by decide

theorem witness_DecodeLineIgnoresTheRest :
    (let r : List Byte := [1, 2, 3, 4, 5, 6, 7, 8, 9, 0, 0, 0];
      let r' : List Byte := [1, 2, 3, 4, 5, 6, 7, 8, 9, 7, 7, 7];
      r.length = 12 ∧ r'.length = 12 ∧ r'.take 9 = r.take 9) ∧
    (let r : List Byte := [0, 2, 3, 4, 5, 6, 7, 8, 0, 0, 0, 0];
      let r' : List Byte := [0, 9, 9, 9, 9, 9, 9, 9, 9, 9, 9, 9];
      r.length = 12 ∧ r'.length = 12 ∧ r[0]? = some 0 ∧ r'.take 1 = r.take 1 ∧ r[8]? = some 0) := by decide

theorem witness_NameTableRoundTrips :
    ∀ ch : Fin 64, emptyTable[ch].line1.length ≤ 8 ∧ (0 : Byte) ∉ emptyTable[ch].line1 ∧
      emptyTable[ch].line2.length ≤ 8 ∧ (0 : Byte) ∉ emptyTable[ch].line2 := by
  simp [emptyTable]

/-- A presentation for each refusal, and one that is accepted. -/
theorem witness_IssueRefusesOrAccepts :
    ({ stateIn .rxBody with inputs := [.host (barePort 8#4)] } : State).st.rest = false ∧
    (barePort 0#4).op ∈ [0#4, 6#4, 7#4, 11#4, 12#4, 13#4, 14#4, 15#4] ∧
    ((barePort 2#4).op = 2#4 ∧ State.reset.rntValid = false) ∧
    (let p : Port := { barePort 3#4 with body := 1#1 };
      (p.op = 3#4 ∨ p.op = 5#4) ∧ p.body = 1#1 ∧ State.reset.rntValid = false) ∧
    (let s : State := { State.reset with inputs := [.host (barePort 8#4)] };
      s.inputs = .host (barePort 8#4) :: [] ∧
      ¬ (s.st.rest = false ∨ (barePort 8#4).op ∈ [0#4, 6#4, 7#4, 11#4, 12#4, 13#4, 14#4, 15#4] ∨
        (((barePort 8#4).op = 3#4 ∨ (barePort 8#4).op = 5#4) ∧ (barePort 8#4).body = 1#1 ∧ s.rntValid = false) ∨
        ((barePort 8#4).op = 2#4 ∧ s.rntValid = false))) := by
  refine ⟨rfl, by decide, ⟨rfl, rfl⟩, ⟨.inl rfl, rfl, rfl⟩, rfl, ?_⟩
  simp [State.reset, Phase.rest, barePort]

/-- The rest states, for every statement about an operation that is accepted in one. -/
theorem witness_rest_states :
    (stateIn .idle).st.rest = true ∧ (stateIn .done).st.rest = true ∧ (stateIn .failed).st.rest = true := ⟨rfl, rfl, rfl⟩

theorem witness_EncodeNamesEncodesTheTable : State.reset.st.rest = true := rfl

theorem witness_DecodeNamesDecodesTheTable :
    (let s : State := { stateIn .done with rntValid := true };
      s.st.rest = true ∧ s.rntValid = true) ∧
    ((stateIn .done).st.rest = true ∧ (stateIn .done).rntValid = false) := ⟨⟨rfl, rfl⟩, rfl, rfl⟩

theorem witness_SendStartsTheFrame :
    (State.reset.st.rest = true ∧ (Shape.none = .rnt → State.reset.rntValid = true)) ∧
    (let s : State := { stateIn .failed with rntValid := true };
      s.st.rest = true ∧ (Shape.rnt = .rnt → s.rntValid = true)) := ⟨⟨rfl, nofun⟩, rfl, fun _ => rfl⟩

theorem witness_ReceiveBeginsTheReceivePart : State.reset.st.rest = true := rfl

theorem witness_SendReceiveStartsTheExchange :
    let s : State := { stateIn .done with rntValid := true };
    s.st.rest = true ∧ (Shape.rnt = .rnt → s.rntValid = true) := ⟨rfl, fun _ => rfl⟩

theorem witness_DeviceOperationsLoadTheirOperands : (stateIn .failed).st.rest = true := rfl

theorem witness_AckIsSizeChecked :
    (0#16 = if State.reset.argExp = .rnt then 1536#16 else 0#16) ∧
    (1#16 ≠ if State.reset.argExp = .rnt then 1536#16 else 0#16) ∧
    (let s : State := { State.reset with argExp := .rnt };
      (1536#16 = if s.argExp = .rnt then 1536#16 else 0#16) ∧
      1535#16 ≠ if s.argExp = .rnt then 1536#16 else 0#16) := by
  simp [State.reset]

theorem witness_OtherCommandsAreUnrecognized :
    (Instr.disconnect04 5 6, 0x0004#16) ∈ [(Instr.nop 5 6, 0x0000#16), (.resetUnit 5 6, 0x000A#16),
      (.getChannelNames 5 6, 0x1000#16), (.setChannelNames 5 6, 0x1001#16),
      (.disconnect17 5 6, 0x0017#16), (.disconnect04 5 6, 0x0004#16)] := by simp

theorem witness_ValidateDispatchesOnTheCommand :
    (let s : State := { stateIn .rxValidate with hdrCmd := 0x0006#16, hdrLen := 0#16 };
      s.st = .rxValidate ∧ s.hdrCmd = 0x0006#16 ∧ s.hdrLen = if s.argExp = .rnt then 1536#16 else 0#16) ∧
    (let s : State := { stateIn .rxValidate with hdrCmd := 0x0006#16, hdrLen := 1#16 };
      s.st = .rxValidate ∧ s.hdrCmd = 0x0006#16 ∧ s.hdrLen ≠ if s.argExp = .rnt then 1536#16 else 0#16) ∧
    (let s : State := { stateIn .rxValidate with hdrCmd := 0x0015#16 };
      s.st = .rxValidate ∧ s.hdrCmd = 0x0015#16) ∧
    (let s : State := { stateIn .rxValidate with hdrCmd := 0x0007#16 };
      s.st = .rxValidate ∧ s.hdrCmd ≠ 0x0006#16 ∧ s.hdrCmd ≠ 0x0015#16) := by
  simp [stateIn, State.reset]

theorem witness_StepRunsTheHostOperation :
    (let s : State := { State.reset with inputs := [.host (barePort 8#4), .close] };
      s.inputs = .host (barePort 8#4) :: [.close]) ∧
    decodePort (barePort 8#4) = .instr .opReset ∧
    decodePort (barePort 6#4) = .rejected (.reservedSelector 6#4) := ⟨rfl, rfl, rfl⟩

/-- A state of RX_VALIDATE that meets the invariant, with an ACK header parsed. -/
def validating : State :=
  { stateIn .rxValidate with
    op := .receive, tmrArmed := true, hdrCmd := 0x0006#16, hdrLen := 0#16, hdrCsum := 0xFFFFFFFA#32, rxcnt := 8#16
    rxhdr := ⟨#[0x06, 0, 0, 0, 0xFA, 0xFF, 0xFF, 0xFF], rfl⟩ }

theorem validating_meets_the_invariant : validating.Inv := by
  constructor <;> decide

theorem witness_StepRunsTheReceivedHeader :
    validating.st = .rxValidate ∧ validating.Inv ∧ validating.inputs = [] ∧
    decodeHeader (headerBytes validating.hdrCmd validating.hdrLen validating.hdrCsum) = .instr (.ack 0 0xFFFFFFFA) ∧
    (let s : State := { validating with inputs := [.engine .blocked] };
      s.st = .rxValidate ∧ s.inputs = .engine .blocked :: []) :=
  ⟨rfl, validating_meets_the_invariant, rfl, rfl, rfl, rfl⟩

/-- A FAILED state after a timeout, which meets the invariant. -/
def timedOut : State :=
  { stateIn .failed with op := .receive, errKind := .transport, errSub := .timeout, connUnreliable := true }

theorem timedOut_meets_the_invariant : timedOut.Inv := by
  constructor <;> decide

theorem witness_RestStatesRest : timedOut.st.rest = true ∧ timedOut.inputs = [] ∧ timedOut.Inv :=
  ⟨rfl, rfl, timedOut_meets_the_invariant⟩

/-- A NOP frame being pushed by SEND, no byte yet. -/
def sending : State :=
  { stateIn .txSend with op := .send, txlen := 8#11 }

theorem sending_meets_the_invariant (stalled : Bool) : ({ sending with txStalled := stalled } : State).Inv := by
  constructor <;> decide +revert +kernel

/-- R320: on a stalled stream a push goes nowhere; a close turns it into a write failure, and a resumed stream takes it. -/
theorem test_stalled_push :
    let s : State := { sending with txStalled := true };
    after (step s) (fun t => (t.st, t.txcnt, t.txs)) = some (.txSend, 0#11, []) ∧
    after (step { s with closed := true }) (fun t => (t.st, t.errSub)) = some (.failed, .writeFail) ∧
    after (Host.Core.run core 2 { s with inputs := [.resume] }) (fun t => (t.txcnt, t.txs)) = some (1#11, [0x00]) :=
  ⟨rfl, rfl, rfl⟩

theorem witness_EventsTouchOnlyTheirOwnState :
    (let s : State := { validating with inputs := [.expire] };
      s.inputs = .expire :: [] ∧ s.tmrArmed = true) ∧
    (let s : State := { State.reset with inputs := [.expire] };
      s.inputs = .expire :: [] ∧ s.tmrArmed = false) ∧
    (let s : State := { State.reset with inputs := [.peer [1, 2]] };
      s.inputs = .peer [1, 2] :: []) ∧
    (let s : State := { State.reset with inputs := [.close, .expire] };
      s.inputs = .close :: [.expire]) ∧
    ({ sending with inputs := [.stall] } : State).inputs = .stall :: [] ∧
    ({ sending with inputs := [.resume] } : State).inputs = .resume :: [] :=
  ⟨⟨rfl, rfl⟩, ⟨rfl, rfl⟩, rfl, rfl, rfl, rfl⟩

theorem witness_TxBuildConstructsTheFrame : (stateIn .txBuild).st = .txBuild := rfl

/-- TX_SEND with the last byte of the longest frame to go, with a closed, a blocked and a stalled stream, and with none to go. -/
theorem witness_TxSendPushesInOrder :
    (let s : State := { stateIn .txSend with txlen := 1544#11, txcnt := 1543#11 };
      s.st = .txSend ∧ s.txlen.toNat ≤ 1544 ∧ s.txcnt < s.txlen ∧ s.closed = false ∧ s.txStalled = false) ∧
    (let s : State := { stateIn .txSend with txlen := 8#11, closed := true };
      s.st = .txSend ∧ s.txcnt < s.txlen ∧ s.closed = true) ∧
    (let s : State := { stateIn .txSend with txlen := 8#11, txcnt := 7#11 };
      s.st = .txSend ∧ s.txcnt < s.txlen ∧ s.closed = false ∧ (StreamChoice.blocked = .blocked ∨
        (StreamChoice.blocked = .ready ∧ s.txStalled = true))) ∧
    (let s : State := { stateIn .txSend with txlen := 8#11, txcnt := 7#11, txStalled := true };
      s.st = .txSend ∧ s.txcnt < s.txlen ∧ s.closed = false ∧ (StreamChoice.ready = .blocked ∨
        (StreamChoice.ready = .ready ∧ s.txStalled = true))) ∧
    (let s : State := { stateIn .txSend with txlen := 8#11, txcnt := 8#11, op := .send };
      ¬ s.txcnt < s.txlen ∧ s.op = .send) ∧
    (let s : State := { stateIn .txSend with txlen := 8#11, txcnt := 8#11, op := .opReset };
      ¬ s.txcnt < s.txlen ∧ s.op ≠ .send) := by
  simp [stateIn, State.reset]

/-- RX_HDR with seven bytes taken, in each of the four conditions, and with eight. -/
theorem witness_RxHdrTakesEightBytes :
    (let s : State := { stateIn .rxHdr with rxcnt := 7#16, tmrArmed := true, tmrExpired := true };
      s.st = .rxHdr ∧ s.rxcnt < 8 ∧ s.tmrExpired = true) ∧
    (let s : State := { stateIn .rxHdr with rxcnt := 7#16, closed := true };
      s.rxcnt < 8 ∧ s.tmrExpired = false ∧ s.closed = true) ∧
    (let s : State := { stateIn .rxHdr with rxcnt := 7#16, rxs := [1] };
      s.rxcnt < 8 ∧ s.tmrExpired = false ∧ s.closed = false ∧ s.rxs = 1 :: [] ∧ StreamChoice.blocked ≠ .fail) ∧
    (let s : State := { stateIn .rxHdr with rxcnt := 7#16 };
      s.rxcnt < 8 ∧ s.tmrExpired = false ∧ s.closed = false ∧ s.rxs = []) ∧
    (let s : State := { stateIn .rxHdr with rxcnt := 8#16 };
      s.st = .rxHdr ∧ ¬ s.rxcnt < 8) := by
  simp [stateIn, State.reset]

/-- RX_BODY with the last byte of a table to take, in each condition; and at once for length 0. -/
theorem witness_RxBodyTakesExactlyTheLength :
    (let s : State := { stateIn .rxBody with hdrLen := 1536#16, rxcnt := 1535#16, tmrExpired := true };
      s.st = .rxBody ∧ s.hdrLen.toNat ≤ 1536 ∧ s.rxcnt < s.hdrLen ∧ s.tmrExpired = true) ∧
    (let s : State := { stateIn .rxBody with hdrLen := 1536#16, rxcnt := 1535#16, closed := true };
      s.rxcnt < s.hdrLen ∧ s.tmrExpired = false ∧ s.closed = true) ∧
    (let s : State := { stateIn .rxBody with hdrLen := 1536#16, rxcnt := 1535#16, rxs := [1] };
      s.rxcnt < s.hdrLen ∧ s.tmrExpired = false ∧ s.closed = false ∧ s.rxs = 1 :: []) ∧
    (let s : State := { stateIn .rxBody with hdrLen := 1536#16, rxcnt := 1535#16 };
      s.rxcnt < s.hdrLen ∧ s.tmrExpired = false ∧ s.closed = false ∧ s.rxs = []) ∧
    ((stateIn .rxBody).hdrLen.toNat ≤ 1536 ∧ ¬ (stateIn .rxBody).rxcnt < (stateIn .rxBody).hdrLen) := by
  simp [stateIn, State.reset]

/-- RX_VERIFY on a right ACK, and on one with a wrong checksum. -/
theorem witness_RxVerifyChecksTheFrame :
    (let s : State := { validating with st := .rxVerify };
      s.st = .rxVerify ∧ s.hdrLen.toNat ≤ 1536 ∧
      (parseHeader (bytesOf s.rxhdr)).checksum =
        checksum (sum8 ((bytesOf s.rxhdr).take 4 ++ (bytesOf s.rxbody).take s.hdrLen.toNat))) ∧
    (let s : State := { validating with st := .rxVerify, rxhdr := ⟨#[0x06, 0, 0, 0, 0, 0, 0, 0], rfl⟩ };
      s.st = .rxVerify ∧ s.hdrLen.toNat ≤ 1536 ∧
      (parseHeader (bytesOf s.rxhdr)).checksum ≠
        checksum (sum8 ((bytesOf s.rxhdr).take 4 ++ (bytesOf s.rxbody).take s.hdrLen.toNat))) := by
  decide

theorem witness_RxDecodeCopiesTheBody :
    (let s : State := { stateIn .rxDecode with argExp := .rnt };
      s.st = .rxDecode ∧ s.seqOp = .none) ∧
    (let s : State := { stateIn .rxDecode with seqOp := .reset, seqStep := .first };
      s.st = .rxDecode ∧ s.seqOp ≠ .none) := ⟨⟨rfl, rfl⟩, rfl, nofun⟩

theorem witness_NamePhasesConvertTheTable :
    ((stateIn .nameEnc).st = .nameEnc ∧ (stateIn .nameEnc).seqOp = .none) ∧
    (let s : State := { stateIn .nameEnc with seqOp := .setNames };
      s.st = .nameEnc ∧ s.seqOp = .setNames) ∧
    ((stateIn .nameDec).st = .nameDec ∧ (stateIn .nameDec).seqOp = .none) ∧
    (let s : State := { stateIn .nameDec with seqOp := .getNames };
      s.st = .nameDec ∧ s.seqOp = .getNames) := ⟨⟨rfl, rfl⟩, ⟨rfl, rfl⟩, ⟨rfl, rfl⟩, rfl, rfl⟩

theorem witness_SequencerStartsTheDisconnect :
    (let s : State := { stateIn .rxDecode with seqOp := .getNames, seqStep := .first };
      s.st = .rxDecode ∧ s.seqOp ≠ .none ∧ s.seqStep = .first ∧ s.seqOp = .getNames) ∧
    (let s : State := { stateIn .nameDec with seqOp := .getNames, seqStep := .first };
      s.st = .nameDec ∧ s.seqStep = .first ∧ (s.seqOp ≠ .getNames ∨ true = true)) ∧
    (let s : State := { stateIn .rxDecode with seqOp := .reset, seqStep := .first };
      s.seqStep = .first ∧ (s.seqOp ≠ .getNames ∨ false = true)) ∧
    (let s : State := { stateIn .rxDecode with seqOp := .getNames, seqStep := .second };
      s.seqStep = .second ∧ s.seqOp = .getNames) ∧
    (let s : State := { stateIn .rxDecode with seqOp := .setNames, seqStep := .second };
      s.seqStep = .second ∧ s.seqOp ≠ .getNames) := by
  simp [stateIn]

theorem witness_RegistersStandAtTheirNumbers :
    3 < 4 ∧ (stateIn .nameDec).st = .nameDec ∧ State.reset.seqOp = .none ∧ State.reset.seqStep = .zero ∧
    timedOut.errKind = .transport ∧ timedOut.errSub = .timeout := ⟨by decide, rfl, rfl, rfl, rfl, rfl⟩

theorem witness_ResetGivesTheStatedValues :
    let s : State := { timedOut with inputs := [.reset (some [1]), .expire] };
    s.inputs = .reset (some [1]) :: [.expire] ∧
    (let s : State := { stateIn .done with rxs := [1], txs := [2], closed := true, inputs := [.reset none] };
      s.inputs = .reset none :: [] ∧ s.st.rest = true ∧ s.connUnreliable = false) := ⟨rfl, rfl, rfl, rfl⟩

/-- A step that goes on and is no reset: a header byte is taken. -/
def listening : State :=
  { stateIn .rxHdr with op := .receive, tmrArmed := true, rxs := [0x06, 0x00] }

theorem witness_step_goes_on :
    (∃ t, step listening = .next t ∧ t.rxs = [0x00] ∧ t.rxcnt = 1) ∧
    ∀ fresh rest, listening.inputs ≠ .reset fresh :: rest :=
  ⟨⟨_, rfl, rfl, rfl⟩, nofun⟩

theorem witness_PhaseFollowsTheGraph :
    (∃ t, step validating = .next t ∧ t.st = .rxBody) ∧ (∀ fresh rest, validating.inputs ≠ .reset fresh :: rest) ∧
    (stateIn .done).st = .done ∧
    (let s : State := { stateIn .failed with inputs := [.host (barePort 8#4)] };
      s.st = .failed ∧ (∀ fresh rest, s.inputs ≠ .reset fresh :: rest) ∧ ∃ t, step s = .next t ∧ t.st ≠ s.st) :=
  ⟨⟨_, rfl, rfl⟩, nofun, rfl, rfl, nofun, _, rfl, nofun⟩

theorem witness_StepKeepsTheInvariant : validating.Inv ∧ ∃ t, step validating = .next t ∧ t.st = .rxBody :=
  ⟨validating_meets_the_invariant, _, rfl, rfl⟩

theorem witness_StepNeverStops : timedOut.Inv ∧ validating.Inv :=
  ⟨timedOut_meets_the_invariant, validating_meets_the_invariant⟩

theorem witness_StickyFlagsSurvive :
    let s : State := { timedOut with opRefused := true, rntValid := true, inputs := [.host (barePort 4#4)] };
    (∃ t, step s = .next t ∧ t.st = .rxHdr) ∧ (∀ fresh rest, s.inputs ≠ .reset fresh :: rest) ∧
    s.connUnreliable = true ∧ s.opRefused = true ∧ s.rntValid = true :=
  ⟨⟨_, rfl, rfl⟩, nofun, rfl, rfl, rfl⟩

theorem witness_StreamsMoveOneByteInTheirPhases :
    (∃ t, step listening = .next t ∧ t.rxs = [0x00]) ∧
    (let s : State := { stateIn .txSend with txlen := 8#11, op := .send };
      ∃ t, step s = .next t ∧ t.txs = [0x00]) ∧
    (let s : State := { State.reset with inputs := [.peer [5]] };
      ∃ t, step s = .next t ∧ t.rxs = [5]) ∧
    (let s : State := { timedOut with inputs := [.host (barePort 4#4)] };
      s.connUnreliable = true ∧ ∃ t, step s = .next t ∧ t.st = .rxHdr ∧ t.tmrArmed = true ∧ s.st ≠ .rxHdr) :=
  ⟨⟨_, rfl, rfl⟩, ⟨_, rfl, rfl⟩, ⟨_, rfl, rfl⟩, rfl, _, rfl, rfl, rfl, nofun⟩

theorem witness_RntHoldsOnlyVerifiedBodies :
    validating.Inv ∧ (∃ t, step validating = .next t) ∧ ∀ fresh rest, validating.inputs ≠ .reset fresh :: rest :=
  ⟨validating_meets_the_invariant, ⟨_, rfl⟩, nofun⟩

/-- The end of OP_RESET's first exchange: the latches change to those of the DISCONNECT exchange. -/
theorem witness_LatchesHoldWhileBusy :
    let s : State := { stateIn .rxDecode with op := .opReset, seqOp := .reset, seqStep := .first };
    s.st.rest = false ∧ (∃ t, step s = .next t ∧ t.seqStep = .second) ∧
    (∀ fresh rest, s.inputs ≠ .reset fresh :: rest) ∧
    (listening.st.rest = false ∧ ∃ t, step listening = .next t) :=
  ⟨rfl, ⟨_, rfl, rfl⟩, nofun, rfl, _, rfl⟩

theorem witness_SendPushesTheWholeFrame :
    State.reset.undisturbed ∧ State.reset.st.rest = true ∧ encode (.send 0x000A .none) = .port { barePort 3#4 with cmd := 0x000A } ∧
    (let s : State := { State.reset with rntValid := true };
      s.undisturbed ∧ (Shape.rnt = .rnt → s.rntValid = true)) ∧
    (sending.Inv ∧ sending.st = .txSend ∧ sending.txProgress ∧
      ({ sending with txStalled := true, inputs := [.resume] } : State).txProgress) ∧
    (let s : State := { sending with txStalled := true };
      s.Inv ∧ s.st = .txSend ∧ s.txcnt < s.txlen ∧ s.inputs = [] ∧ ¬ s.txProgress) :=
  ⟨⟨rfl, rfl, rfl, rfl⟩, rfl, rfl, ⟨⟨rfl, rfl, rfl, rfl⟩, fun _ => rfl⟩,
    ⟨sending_meets_the_invariant _, rfl, rfl, rfl⟩, sending_meets_the_invariant _, rfl, by decide, rfl, nofun⟩

/-- A peer that has answered with a bodiless ACK, and one that has answered with a table. -/
theorem witness_SendReceiveCompletesOnAnAck :
    (let s : State := { State.reset with rxs := construct Config.opAck [] ++ [7] };
      s.undisturbed ∧ s.st.rest = true ∧ s.rxs = construct Config.opAck [] ++ [7] ∧
      ([] : List Byte).length = if Shape.none = .rnt then 1536 else 0) ∧
    (let answer := List.replicate 1536 (0x00 : Byte);
      let s : State := { State.reset with rxs := construct Config.opAck answer ++ [] };
      s.undisturbed ∧ s.rxs = construct Config.opAck answer ++ [] ∧
      answer.length = if Shape.rnt = .rnt then 1536 else 0) ∧
    encode (.sendReceive 0x1000 .none .rnt) = .port { barePort 5#4 with cmd := 0x1000, exp := 1#1 } := by
  refine ⟨⟨⟨rfl, rfl, rfl, rfl⟩, rfl, rfl, rfl⟩, ⟨⟨rfl, rfl, rfl, rfl⟩, rfl, ?_⟩, rfl⟩
  exact (List.length_replicate ..).trans (if_pos rfl).symm

theorem witness_OpResetSendsResetThenDisconnect :
    let s : State := { State.reset with rxs := construct Config.opAck [] ++ construct Config.opAck [] ++ [7] };
    s.undisturbed ∧ s.st.rest = true ∧ encode .opReset = .port (barePort 8#4) ∧
    s.rxs = construct Config.opAck [] ++ construct Config.opAck [] ++ [7] := ⟨⟨rfl, rfl, rfl, rfl⟩, rfl, rfl, rfl⟩

theorem witness_OpGetNamesReturnsTheDecodedTable :
    let r : Buf Config.rntSize := Vector.replicate 1536 0x41
    let s : State := { State.reset with
      rxs := construct Config.opAck (bytesOf r) ++ construct Config.opAck [] ++ [] };
    s.undisturbed ∧ s.st.rest = true ∧ encode .opGetNames = .port (barePort 9#4) ∧
    s.rxs = construct Config.opAck (bytesOf r) ++ construct Config.opAck [] ++ [] := ⟨⟨rfl, rfl, rfl, rfl⟩, rfl, rfl, rfl⟩

theorem witness_OpSetNamesSendsTheEncodedTable :
    let s : State := { State.reset with rxs := construct Config.opAck [] ++ construct Config.opAck [] ++ [7] };
    s.undisturbed ∧ s.st.rest = true ∧ encode (.opSetNames helloNick) = .port { barePort 10#4 with table := helloNick } ∧
    s.rxs = construct Config.opAck [] ++ construct Config.opAck [] ++ [7] := ⟨⟨rfl, rfl, rfl, rfl⟩, rfl, rfl, rfl⟩

theorem witness_RejectedFirstExchangeSendsNoDisconnect :
    let s : State := { State.reset with rxs := headerBytes 0x0015#16 0xFFFF#16 0#32 ++ [7] };
    s.undisturbed ∧ s.st.rest = true ∧ s.rxs = headerBytes 0x0015#16 0xFFFF#16 0#32 ++ [7] ∧
    ((Instr.opReset = .opReset ∨ Instr.opReset = .opGetNames) ∧ encode .opReset = .port (barePort 8#4)) ∧
    ((Instr.opGetNames = .opReset ∨ Instr.opGetNames = .opGetNames) ∧ encode .opGetNames = .port (barePort 9#4)) ∧
    encode (.opSetNames helloNick) = .port { barePort 10#4 with table := helloNick } :=
  ⟨⟨rfl, rfl, rfl, rfl⟩, rfl, rfl, ⟨.inl rfl, rfl⟩, ⟨.inr rfl, rfl⟩, rfl⟩

end Sys2Proof.Tests
end

section
/-! PROOFS of the statements about the state: how ST moves, and what the host reads under which number. -/

namespace Sys2Proof.Machine

/-! ## ST and the transition graph (10_state.md R24) -/

/-- The rest states are IDLE, DONE and FAILED. -/
theorem Phase.rest_iff {q : Phase} : q.rest = true ↔ q = .idle ∨ q = .done ∨ q = .failed := by
  cases q <;> decide

/-- Every receiving phase but RX_DECODE may fail (R24, 60_exceptions.md R266). -/
theorem Phase.edge_failed_of_receiving {q : Phase} (h : q.receiving = true) (hd : q ≠ .rxDecode) :
    q.rest = false ∧ q.edge .failed = true := by
  revert hd h
  cases q <;> decide

/-- From every rest state lead the same four edges, to the first phases of the operations. -/
theorem Phase.edge_of_rest {q : Phase} (hq : q.rest = true) :
    ∀ r ∈ [Phase.nameEnc, .nameDec, .txBuild, .rxHdr], q.edge r = true := by
  rcases Phase.rest_iff.mp hq with rfl | rfl | rfl <;> decide

/-- An engine turn keeps ST, or moves it from a busy state along an edge. -/
theorem Turn.st_cases {s t : State} (h : Turn s t) :
    t.st = s.st ∨ (s.st.rest = false ∧ s.st.edge t.st = true) := by
  cases h with
  | stay | push | takeHeader | takeBody => exact .inl (by simp)
  | failed f hf u hr hd => exact .inr (by simpa using Phase.edge_failed_of_receiving hr hd)
  | build h | writeFail h | sent h | listen h | parsed h | accepted h | bodyThere h | verified h | received h
  | toDecode h | toDisconnect h | sequenced h | encoded h | encodedToSend h | decoded h | decodedToDisconnect h
  | decodedAtEnd h => exact .inr (by simp [h, Phase.rest, Phase.edge])

/-- An operation the host presents keeps ST, or moves it from a rest state along an edge. -/
theorem hostIssues_st_cases {p : Port} {s t : State} (h : hostIssues p s = .next t) :
    t.st = s.st ∨ (s.st.rest = true ∧ s.st.edge t.st = true) := by
  obtain ⟨u, hu, hcases⟩ := hostIssues_cases p s
  obtain rfl : u = t := by simpa [hu] using h
  rcases hcases with rfl | ⟨hrest, hstart⟩
  · exact .inl rfl
  · refine .inr ⟨hrest, Phase.edge_of_rest hrest _ ?_⟩
    rcases hstart with ⟨_, rfl⟩ | ⟨_, rfl⟩ | ⟨_, _, _, rfl⟩ | ⟨_, rfl⟩ | ⟨_, _, _, _, rfl⟩ | rfl | rfl | ⟨_, rfl⟩ <;> simp

/-- A step that is no reset keeps ST, or moves it along an edge: from a busy state, or for an operation the host presents. -/
theorem step_st_cases {s t : State} (h : step s = .next t) (hreset : ∀ fresh rest, s.inputs ≠ .reset fresh :: rest) :
    t.st = s.st ∨ (s.st.edge t.st = true ∧ (s.st.rest = false ∨ ∃ p rest, s.inputs = .host p :: rest)) := by
  rcases step_cases h with ⟨_, ht⟩ | ⟨_, _, _, ht⟩ | ⟨p, rest, hi, hp⟩ | ⟨_, _, _, rfl⟩ | ⟨_, _, rfl⟩ | ⟨_, _, rfl⟩ |
    ⟨_, _, rfl⟩ | ⟨_, _, rfl⟩ | ⟨_, _, hi, _⟩ | ⟨_, hi, _⟩
  · exact ht.st_cases.imp_right fun ⟨hbusy, hedge⟩ => ⟨hedge, .inl hbusy⟩
  · exact ht.st_cases.imp_right fun ⟨hbusy, hedge⟩ => ⟨hedge, .inl hbusy⟩
  · exact (hostIssues_st_cases hp).imp_right fun ⟨_, hedge⟩ => ⟨hedge, .inr ⟨p, rest, hi⟩⟩
  · exact .inl rfl
  · exact .inl (by simp)
  · exact .inl rfl
  · exact .inl rfl
  · exact .inl rfl
  · exact absurd hi (hreset _ _)
  · exact absurd hi (hreset _ _)

/-- Settles O47: `step_st_cases` says where ST moves, and by which input it leaves a rest state. -/
theorem phaseFollowsTheGraph : Obligations.PhaseFollowsTheGraph := by
  refine ⟨fun s t h hreset => ?_, fun s c hs => engineStep_rest c (Phase.rest_iff.mpr hs), fun s t hs h hreset hmove => ?_⟩
  · exact (step_st_cases h hreset).imp_right And.left
  · obtain ⟨-, hbusy | hhost⟩ := (step_st_cases h hreset).resolve_left hmove
    · exact absurd (Phase.rest_iff.mpr hs) (by simp [hbusy])
    · exact hhost

/-! ## What the host reads (10_state.md R21, R30 to R35) -/

/-- The ten bits of STATUS at their places. -/
theorem State.status_bits (s : State) :
    s.status.getLsbD 0 = s.busy ∧ s.status.getLsbD 1 = s.doneFlag ∧ s.status.getLsbD 2 = s.failFlag ∧
    s.status.getLsbD 3 = s.rntValid ∧ s.status.getLsbD 4 = s.lntValid ∧ s.status.getLsbD 5 = s.nameUnterminated ∧
    s.status.getLsbD 6 = s.connUnreliable ∧ s.status.getLsbD 7 = s.opRefused ∧ s.status.getLsbD 8 = s.tmrArmed ∧
    s.status.getLsbD 9 = s.tmrExpired := by
  simp only [State.status, BitVec.getLsbD_append, BitVec.getLsbD_ofBool]
  simp

theorem State.busy_iff {s : State} : s.busy = true ↔ s.st ≠ .idle ∧ s.st ≠ .done ∧ s.st ≠ .failed := by
  simp [State.busy, ← Bool.not_eq_true, Phase.rest_iff]

theorem State.doneFlag_iff {s : State} : s.doneFlag = true ↔ s.st = .done := by
  simp [State.doneFlag]

theorem State.failFlag_iff {s : State} : s.failFlag = true ↔ s.st = .failed := by
  simp [State.failFlag]

/-- OP and the operand latches, registers 0 to 3, are written only. -/
theorem State.hostRead_writeOnly (s : State) {n : Nat} (h : n < 4) : s.hostRead n = none := by
  match n, h with
  | 0, _ | 1, _ | 2, _ | 3, _ => rfl

/-- A register that shows the code of its value, `code reg`, reads as its row of the table of codes says. -/
theorem State.hostRead_of_codeTable {α : Type} {s : State} {n width : Nat} {code : α → Nat} {reg : α}
    {table : List (α × Nat)} (hread : s.hostRead n = some (.bits width (code reg)))
    (htable : ∀ row ∈ table, code row.1 = row.2) :
    ∀ q c, (q, c) ∈ table → reg = q → s.hostRead n = some (.bits width c) := by
  rintro q c hrow rfl
  rw [hread, htable _ hrow]

/-- Settles O45: STATUS bit by bit, the code tables row by row, and every other register as `State.hostRead` lists it. -/
theorem registersStandAtTheirNumbers : Obligations.RegistersStandAtTheirNumbers := by
  intro s
  obtain ⟨hbusy, hdone, hfail, hrnt, hlnt, hname, hconn, hrefused, harmed, hexpired⟩ := s.status_bits
  refine ⟨rfl, by rw [hbusy, State.busy_iff], by rw [hdone, State.doneFlag_iff], by rw [hfail, State.failFlag_iff],
    hrnt, hlnt, hname, hconn, hrefused, harmed, hexpired, fun n => s.hostRead_writeOnly, ?st, ?seqOp, ?seqStep, ?errKind,
    ?errSub, rfl, rfl, rfl, rfl, rfl, rfl, rfl, rfl, rfl, rfl, rfl, rfl, rfl, rfl, rfl, rfl⟩
  case st => exact State.hostRead_of_codeTable (code := fun q => (Phase.code q).toNat) rfl (by decide)
  case seqOp => exact State.hostRead_of_codeTable (code := fun q => (SeqOp.code q).toNat) rfl (by decide)
  case seqStep => exact State.hostRead_of_codeTable (code := fun q => (SeqStep.code q).toNat) rfl (by decide)
  case errKind => exact State.hostRead_of_codeTable (code := fun q => (ErrKind.code q).toNat) rfl (by decide)
  case errSub => exact State.hostRead_of_codeTable (code := fun q => (ErrSub.code q).toNat) rfl (by decide)

end Sys2Proof.Machine
end

section
/-! PROOF of the statement about the bodiless frames: everything R104 says of one follows from its command. -/

namespace Sys2Proof.Machine

/-- The 64-bit word of a header: the three fields, from the command in the lowest bits up (R90). -/
def headerWord (c l : U16) (k : U32) : Nat :=
  c.toNat + 2 ^ 16 * l.toNat + 2 ^ 32 * k.toNat

theorem leBytes_headerWord (c l : U16) (k : U32) : leBytes 8 (headerWord c l k) = headerBytes c l k := by
  have hc := c.isLt
  have hl := l.isLt
  have hk := k.isLt
  simp only [headerWord, leBytes, headerBytes, bytes16, bytes32, List.cons_append, List.nil_append, List.cons.injEq,
    and_true]
  refine ⟨?_, ?_, ?_, ?_, ?_, ?_, ?_, ?_⟩ <;> apply BitVec.eq_of_toNat_eq <;>
    simp only [BitVec.toNat_ofNat, BitVec.extractLsb'_toNat, Nat.shiftRight_eq_div_pow] <;> omega

/-- The row of R104 for a command: frame bytes, byte sum, checksum and word, all computed from the command. -/
def bodilessRow (cmd : U16) : U16 × List Byte × U32 × U32 × Nat :=
  let S := sum8 (bytes16 cmd ++ bytes16 0)
  (cmd, headerBytes cmd 0 (checksum S), S, checksum S, headerWord cmd 0 (checksum S))

/-- A bodiless frame is the header of its row. -/
theorem construct_nil (cmd : U16) : construct cmd [] = (bodilessRow cmd).2.1 := by
  rw [construct_eq]
  simp [bodilessRow, checksum]

/-- A row that is the one computed from its command tells the frame, its sum, its checksum and its word. -/
theorem frame_of_eq_bodilessRow {cmd : U16} {bytes : List Byte} {S k : U32} {W : Nat}
    (hrow : (cmd, bytes, S, k, W) = bodilessRow cmd) :
    construct cmd [] = bytes ∧ sum8 (bytes.take 4) = S ∧ checksum S = k ∧ leBytes 8 W = bytes := by
  rw [construct_nil]
  simp only [bodilessRow, Prod.mk.injEq, true_and] at hrow ⊢
  obtain ⟨rfl, rfl, rfl, rfl⟩ := hrow
  exact ⟨rfl, rfl, rfl, leBytes_headerWord cmd 0 _⟩

/-- Settles O10: each of the seven listed rows is the row computed from its command. -/
theorem canonicalFramesAreTheTable : Obligations.CanonicalFramesAreTheTable := by
  intro cmd bytes S k W hmem
  refine frame_of_eq_bodilessRow ((?rows : ∀ row ∈ _, row = bodilessRow row.1) _ hmem)
  case rows => decide

end Sys2Proof.Machine
end

section
/-! PROOFS of the statements about the frame codec: byte sums, checksums, and the frame that CONSTRUCT lays out, PARSE
and VERIFY read, and TX_BUILD puts in TXBUF. -/

namespace Sys2Proof

/-- The two bytes of a number's low 16 bits, written as the number's own bytes. -/
theorem bytes16_ofNat (n : Nat) : bytes16 (BitVec.ofNat 16 n) = [BitVec.ofNat 8 n, BitVec.ofNat 8 (n / 256)] := by
  simp only [bytes16, List.cons.injEq, and_true]
  constructor <;> apply BitVec.eq_of_toNat_eq <;>
    simp only [BitVec.toNat_ofNat, BitVec.extractLsb'_toNat, Nat.shiftRight_eq_div_pow] <;> omega

end Sys2Proof

namespace Sys2Proof.Machine

/-! ## SUM8 (40_frame_codec.md R130, R131) -/

theorem sum8_append (a b : List Byte) : sum8 (a ++ b) = sum8 a + sum8 b := by
  rw [sum8, byteTotal_append, BitVec.ofNat_add]
  rfl

/-- A checksum field that still holds zero adds nothing to the sum. -/
theorem sum8_zeroField (a b : List Byte) : sum8 (a ++ [0, 0, 0, 0] ++ b) = sum8 (a ++ b) := by
  simp [sum8, byteTotal_append]

/-- Settles O6: SUM8 is the exact total reduced, and the total adds up over concatenation. -/
theorem byteSumIsArithmetic : Obligations.ByteSumIsArithmetic :=
  ⟨fun bs => by rw [toNat_sum8, byteTotal_eq_sum], rfl, sum8_append, by decide⟩

/-- As many bytes as a frame sums at most, 4 and a body of 65535, have a sum that is not reduced. -/
theorem toNat_sum8_of_length {bs : List Byte} (h : bs.length ≤ 65539) : (sum8 bs).toNat = byteTotal bs := by
  have := byteTotal_le bs
  rw [toNat_sum8, Nat.mod_eq_of_lt (by omega)]

/-- Such a sum is 0 only where the exact total is. -/
theorem sum8_eq_zero_iff {bs : List Byte} (h : bs.length ≤ 65539) : sum8 bs = 0 ↔ byteTotal bs = 0 := by
  rw [← toNat_sum8_of_length h, ← BitVec.toNat_inj]
  rfl

theorem byteTotal_bytes16 (v : U16) : byteTotal (bytes16 v) = v.toNat % 256 + v.toNat / 256 := by
  have := v.isLt
  simp only [bytes16, byteTotal_cons, byteTotal_nil, BitVec.extractLsb'_toNat, Nat.shiftRight_eq_div_pow]
  omega

theorem byteTotal_bytes16_eq_zero {v : U16} : byteTotal (bytes16 v) = 0 ↔ v = 0 := by
  rw [byteTotal_bytes16, ← BitVec.toNat_inj, show (0 : U16).toNat = 0 from rfl]
  omega

/-- A length below 2^16 is coded 0 by the empty body only. -/
theorem ofNat_length_eq_zero {body : List Byte} (h : body.length ≤ 65535) :
    BitVec.ofNat 16 body.length = 0 ↔ body = [] := by
  rw [← List.length_eq_zero_iff, ← BitVec.toNat_inj, BitVec.toNat_ofNat, Nat.mod_eq_of_lt (by omega)]
  rfl

/-- R131's only zero: command, length and body sum to 0 only if each of them does, and the length bytes only for an
empty body. -/
theorem sum8_fields_eq_zero (cmd : U16) {body : List Byte} (h : body.length ≤ 65535) :
    sum8 (bytes16 cmd ++ bytes16 (BitVec.ofNat 16 body.length) ++ body) = 0 ↔ cmd = 0 ∧ body = [] := by
  rw [sum8_eq_zero_iff (by simp; omega), byteTotal_append, byteTotal_append, Nat.add_eq_zero_iff, Nat.add_eq_zero_iff,
    byteTotal_bytes16_eq_zero, byteTotal_bytes16_eq_zero, ofNat_length_eq_zero h, and_iff_left_iff_imp]
  rintro ⟨-, rfl⟩
  rfl

/-- Settles O7: every bound is 255 a byte, which stays below 2^32. -/
theorem frameSumNeverWraps : Obligations.FrameSumNeverWraps := by
  refine ⟨fun bs => ?total, fun bs h => ?frame, fun bs h => ?block, fun cmd body => sum8_fields_eq_zero cmd⟩
  case total => exact byteTotal_eq_sum bs ▸ byteTotal_le bs
  case frame =>
    have := byteTotal_le bs
    rw [toNat_sum8_of_length h]
    exact ⟨byteTotal_eq_sum bs, by omega⟩
  case block =>
    have := byteTotal_le bs
    rw [toNat_sum8_of_length (by omega)]
    omega

/-! ## CHECKSUM (R132) -/

theorem checksum_eq_neg (s : U32) : checksum s = -s := neg32_eq_neg s

theorem toNat_checksum (s : U32) : (checksum s).toNat = (2 ^ 32 - s.toNat) % 2 ^ 32 := toNat_neg32 s

theorem toNat_checksum_of_ne_zero {s : U32} (h : s ≠ 0) : (checksum s).toNat = 2 ^ 32 - s.toNat := by
  have : s.toNat ≠ 0 := fun h0 => h (BitVec.eq_of_toNat_eq h0)
  rw [toNat_checksum, Nat.mod_eq_of_lt (by omega)]

/-- Negation of a sum below the sign bit does not overflow. -/
theorem toInt_checksum {s : U32} (h : s.toNat < 2 ^ 31) : (checksum s).toInt = -(s.toNat : Int) := by
  rw [BitVec.toInt_eq_toNat_cond, toNat_checksum]
  split <;> omega

/-- Settles O8: CHECKSUM is the negation of the word, and every clause is a fact about that. -/
theorem checksumIsNegation : Obligations.ChecksumIsNegation := fun s =>
  ⟨by rw [checksum_eq_neg, BitVec.neg_eq_not_add]; rfl, toNat_checksum s, rfl, toNat_checksum_of_ne_zero,
    by rw [checksum_eq_neg, BitVec.add_right_neg]; rfl, by rw [checksum_eq_neg, checksum_eq_neg, BitVec.neg_neg],
    fun h => toInt_checksum (by omega), rfl⟩

/-! ## CONSTRUCT, PARSE and VERIFY (R133, R134, R138 to R141) -/

/-- Settles O9: the header of `construct_eq` byte for byte, its sum taken with the checksum field still zero. -/
theorem constructLaysOutTheFrame : Obligations.ConstructLaysOutTheFrame := by
  refine ⟨fun cmd body _ => ?layout, by decide⟩
  rw [sum8_zeroField, construct_eq, headerBytes, bytes16_ofNat]
  rfl

/-- PARSE of a header and at least as many bytes as it declares. -/
theorem parse_headerBytes {c l : U16} {k : U32} {rest : List Byte} (h : l.toNat ≤ rest.length) :
    parse (headerBytes c l k ++ rest) = some (⟨c, l, k⟩, rest.take l.toNat) := by
  have hfields : parseHeader ((headerBytes c l k ++ rest).take 8) = ⟨c, l, k⟩ := parseHeader_headerBytes c l k []
  have hlong : ¬ (headerBytes c l k ++ rest).length < 8 + l.toNat := by simp; omega
  simp only [parse, Config.hdrSize, hfields, if_neg hlong]
  rfl

/-- A header with a body verifies exactly when its checksum field negates the sum of the other fields and the body. -/
theorem verify_headerBytes_ok {c l : U16} {k : U32} {body : List Byte} :
    (verify (headerBytes c l k) body).ok = true ↔ k = checksum (sum8 (bytes16 c ++ bytes16 l ++ body)) := by
  have hk : memRead32 (headerBytes c l k) 4 = k := (memRead_headerBytes c l k []).2.2
  rw [verify_ok_iff, hk]
  rfl

/-- Settles O12: a constructed frame is a header that declares its body and negates its sum. -/
theorem parseOfConstructRoundTrips : Obligations.ParseOfConstructRoundTrips := by
  intro cmd body hbody
  have hlen : (BitVec.ofNat 16 body.length).toNat = body.length := by
    rw [BitVec.toNat_ofNat, Nat.mod_eq_of_lt (by omega)]
  rw [construct_eq, parse_headerBytes hlen.le, hlen, List.take_length, List.take_left' (length_headerBytes _ _ _),
    verify_headerBytes_ok]
  exact ⟨rfl, rfl⟩

/-- The checksum invariant of R133: the four parts of a frame sum to 0. -/
theorem verify_ok_iff_parts_sum_to_zero (h body : List Byte) :
    (verify h body).ok = true ↔
      sum8 (h.take 2) + sum8 ((h.drop 2).take 2) + sum8 body + (parseHeader h).checksum = 0 := by
  rw [← sum8_append, ← List.take_add, ← sum8_append]
  exact decide_eq_true_iff

/-- Settles O13: VERIFY's fields by definition, its verdict by the two forms of the invariant. -/
theorem verifyIsTheChecksumInvariant : Obligations.VerifyIsTheChecksumInvariant := fun h body _ =>
  ⟨rfl, rfl, rfl, verify_ok_iff_parts_sum_to_zero h body, verify_ok_iff h body, sum8_zeroField (h.take 4) body⟩

/-! ## TX_BUILD (R135) -/

theorem State.requestBody_eq_ite (s : State) :
    s.requestBody = if s.argBody = .rnt then bytesOf s.rnt else [] := by
  cases h : s.argBody <;> simp [State.requestBody, h]

theorem State.length_requestBody_le (s : State) : s.requestBody.length ≤ 1536 := by
  rw [State.requestBody_eq_ite]
  split <;> simp

/-- Every frame the block sends fits in TXBUF (10_state.md R37). -/
theorem State.length_requestFrame_le (s : State) : (construct s.argCmd s.requestBody).length ≤ 1544 := by
  have := s.length_requestBody_le
  rw [length_construct]
  omega

/-- A frame that fits in TXBUF stands there whole, from offset 0. -/
theorem State.take_txbuf_putFrame (s : State) {frame : List Byte} (h : frame.length ≤ 1544) :
    (bytesOf (s.putFrame frame).txbuf).take frame.length = frame := by
  rw [State.putFrame_txbuf, bytesOf_bufOf, List.take_take, min_eq_left h, List.append_assoc, List.take_left]

/-- Settles O36: the frame of the latched request, which fits in TXBUF and whose length fits in TXLEN. -/
theorem txBuildConstructsTheFrame : Obligations.TxBuildConstructsTheFrame := by
  intro s c hst body frame
  have hframe : construct s.argCmd s.requestBody = frame := by rw [State.requestBody_eq_ite]
  have hlen : frame.length ≤ 1544 := hframe ▸ s.length_requestFrame_le
  rw [engineStep_txBuild c hst, phaseTxBuild, hframe]
  refine ⟨_, rfl, s.take_txbuf_putFrame hlen, ?_, rfl, rfl⟩
  rw [BitVec.toNat_ofNat, Nat.mod_eq_of_lt (by omega)]

end Sys2Proof.Machine
end

section
/-! PROOFS of the statements about the Channel Name Codec: one line and its record, the table and its 128 records, and
the two operations and phases that convert the table. -/

namespace Sys2Proof.Machine

/-! ## One line and its record (41_channel_name_codec.md R160, R164 to R166) -/

/-- Settles O15: the bytes of a record are those of `getElem?_encodeLine`, and all of them come from the first 8. -/
theorem encodeLineIsTheRecord : Obligations.EncodeLineIsTheRecord := by
  refine fun s => ⟨length_encodeLine s, fun i hi => ?content, fun i hi hi12 => ?zeros, fun s' hs => ?truncated, rfl⟩
  case content => rw [getElem?_encodeLine s i (by omega), if_pos hi]
  case zeros => rw [getElem?_encodeLine s i hi12, if_neg (by omega)]
  case truncated =>
    have hlen : min s'.length 8 = min s.length 8 := by
      simpa only [List.length_take, Nat.min_comm] using congrArg List.length hs
    simp only [encodeLine, Config.lineContent, hs, hlen]

/-- A first zero among the 8 content bytes ends the string, which is then shorter than the content. -/
theorem decodeLine_of_firstZero {r : List Byte} {k : Nat} (hk : k < 8) (hzero : r[k]? = some 0)
    (hfirst : ∀ i, i < k → r[i]? ≠ some 0) : decodeLine r = r.take k ∧ lineUnterminated r = false := by
  have hcut : decodeLine r = r.take k := by
    rw [decodeLine, takeWhile_nonzero_eq_take _ k, List.take_take, min_eq_left hk.le]
    · rwa [List.getElem?_take_of_lt hk]
    · exact fun i hi => by rw [List.getElem?_take_of_lt (hi.trans hk)]; exact hfirst i hi
  have hshort : (decodeLine r).length ≠ 8 := by simp [hcut]; omega
  exact ⟨hcut, by simp [lineUnterminated, Config.lineContent, hshort]⟩

/-- Without a zero among them the string is the 8 content bytes, whatever the ninth byte is (R166). -/
theorem decodeLine_of_noZero {r : List Byte} (h : ∀ i, i < 8 → r[i]? ≠ some 0) : decodeLine r = r.take 8 := by
  refine takeWhile_nonzero_eq_self _ fun hmem => ?_
  obtain ⟨i, hi⟩ := List.mem_iff_getElem?.mp hmem
  have h8 : i < 8 := by have := (List.getElem?_eq_some_iff.mp hi).1; simp at this; omega
  exact h i h8 (by rwa [List.getElem?_take_of_lt h8] at hi)

/-- The flag of a field with 8 content bytes other than zero is decided by its ninth byte. -/
theorem lineUnterminated_of_noZero {r : List Byte} (hr : r.length = 12) (h : ∀ i, i < 8 → r[i]? ≠ some 0) :
    lineUnterminated r = true ↔ r[8]? ≠ some 0 := by
  have hfull : (decodeLine r).length = 8 := by simp [decodeLine_of_noZero h, hr]
  simp [lineUnterminated, Config.lineContent, hfull, byteAt, hr]

/-- Settles O16: the scan meets a zero within the content, or it does not. -/
theorem decodeLineScansForTheFirstZero : Obligations.DecodeLineScansForTheFirstZero := fun _ hr =>
  ⟨fun _ => decodeLine_of_firstZero, fun h => ⟨decodeLine_of_noZero h, lineUnterminated_of_noZero hr h⟩, rfl⟩

/-- Where there is a zero, there is a first one. -/
theorem exists_firstZero {r : List Byte} {k : Nat} (h : r[k]? = some 0) :
    ∃ m ≤ k, r[m]? = some 0 ∧ ∀ i, i < m → r[i]? ≠ some 0 :=
  have hex : ∃ m : Nat, r[m]? = some 0 := ⟨k, h⟩
  ⟨Nat.find hex, Nat.find_min' hex h, Nat.find_spec hex, fun _ hi => Nat.find_min hex hi⟩

/-- Settles O17: up to a zero at index 8 the two fields are equal; a zero before it has a first zero of both before it. -/
theorem decodeLineIgnoresTheRest : Obligations.DecodeLineIgnoresTheRest := by
  refine fun r r' _ _ => ⟨decodeLine_congr r r', fun k hk hzero heq => ?_⟩
  obtain rfl | hk8 := Nat.eq_or_lt_of_le hk
  · exact decodeLine_congr r r' heq
  · obtain ⟨m, hm, hmzero, hfirst⟩ := exists_firstZero hzero
    have hsame : ∀ i, i ≤ m → r'[i]? = r[i]? := fun i hi => by
      rw [← List.getElem?_take_of_lt (by omega : i < k + 1), heq, List.getElem?_take_of_lt (by omega)]
    have hprefix : r'.take m = r.take m := by
      simpa [List.take_take, show min m (k + 1) = m by omega] using congrArg (List.take m) heq
    obtain ⟨hcut, hflag⟩ := decodeLine_of_firstZero (by omega) hmzero hfirst
    obtain ⟨hcut', hflag'⟩ := decodeLine_of_firstZero (r := r') (by omega : m < 8) (by rw [hsame m le_rfl, hmzero])
      fun i hi => by rw [hsame i hi.le]; exact hfirst i hi
    exact ⟨by rw [hcut', hcut, hprefix], by rw [hflag', hflag]⟩

theorem length_decodeLine_le (r : List Byte) : (decodeLine r).length ≤ 8 :=
  (List.takeWhile_sublist _).length_le.trans (List.length_take_le _ _)

theorem zero_notMem_decodeLine (r : List Byte) : (0 : Byte) ∉ decodeLine r := fun h => by
  simpa using List.mem_takeWhile_imp h

theorem decodeLine_prefix (r : List Byte) : decodeLine r <+: r :=
  (List.takeWhile_prefix _).trans (List.take_prefix _ _)

/-- The string of a whole record reaches beyond `i` exactly when `i` is a content byte and no zero stands up to it. -/
theorem lt_length_decodeLine_iff {r : List Byte} (hr : 8 ≤ r.length) (i : Nat) :
    i < (decodeLine r).length ↔ i < 8 ∧ ∀ j, j ≤ i → r[j]? ≠ some 0 := by
  constructor
  · intro hi
    refine ⟨hi.trans_le (length_decodeLine_le r), fun j hj hzero => zero_notMem_decodeLine r ?_⟩
    obtain ⟨t, ht⟩ := decodeLine_prefix r
    rw [← ht, List.getElem?_append_left (by omega)] at hzero
    exact List.mem_of_getElem? hzero
  · rintro ⟨hi, hnz⟩
    by_cases hall : ∀ j, j < 8 → r[j]? ≠ some 0
    · rw [decodeLine_of_noZero hall]; simp; omega
    · push Not at hall
      obtain ⟨k, hk, hzero⟩ := hall
      obtain ⟨m, hm, hmzero, hfirst⟩ := exists_firstZero hzero
      have him : i < m := by
        by_contra hle
        exact hnz m (by omega) hmzero
      rw [(decodeLine_of_firstZero (by omega) hmzero hfirst).1]; simp; omega

/-- The canonical form of a record (R169 d), byte by byte. -/
theorem getElem?_encodeLine_decodeLine {r : List Byte} (hr : 8 ≤ r.length) {i : Nat} (hi : i < 12) :
    (encodeLine (decodeLine r))[i]? = if i < 8 ∧ ∀ j, j ≤ i → r[j]? ≠ some 0 then r[i]? else some 0 := by
  rw [getElem?_encodeLine _ i hi, min_eq_left (length_decodeLine_le r)]
  refine if_ctx_congr (lt_length_decodeLine_iff hr i) (fun hlt => ?_) fun _ => rfl
  obtain ⟨t, ht⟩ := decodeLine_prefix r
  conv_rhs => rw [← ht]
  rw [List.getElem?_append_left ((lt_length_decodeLine_iff hr i).mpr hlt)]

/-! ## The table and its records (30_encoding.md R101; R163, R167 to R169) -/

/-- A channel and a line of it lie within the 1536 bytes with their whole record. -/
theorem length_recordAt (r : Buf Config.rntSize) {ch ln : Nat} (hch : ch < 64) (hln : ln < 2) :
    (recordAt (bytesOf r) ch ln).length = 12 := by
  simp [recordAt, recOffset, Config.recSize, Config.rntSize]
  omega

/-- The records of a table in the order they stand in: number `k` is line `k % 2` of channel `k / 2`. -/
theorem recordAt_div_mod (r : List Byte) (k : Nat) : recordAt r (k / 2) (k % 2) = (r.drop (12 * k)).take 12 := by
  rw [recordAt, recOffset, show 24 * (k / 2) + 12 * (k % 2) = 12 * k by omega]

/-- Byte `i` of record `k`, as a byte of the table. -/
theorem getElem?_recordAt_div_mod (r : List Byte) (k : Nat) {i : Nat} (hi : i < 12) :
    (recordAt r (k / 2) (k % 2))[i]? = r[12 * k + i]? := by
  rw [recordAt_div_mod, List.getElem?_take_of_lt hi, List.getElem?_drop]

theorem recordAt_encodeTable (t : NameTable) (ch : Fin 64) :
    recordAt (bytesOf (encodeTable t)) ch.val 0 = encodeLine t[ch].line1 ∧
    recordAt (bytesOf (encodeTable t)) ch.val 1 = encodeLine t[ch].line2 := by
  have hdrop := drop_flatMap_encodeChannel t.toList ch.val (by simp)
  have hget : t.toList[ch.val]'(by simp) = t[ch] := by simp
  rw [hget] at hdrop
  constructor
  · rw [recordAt, bytesOf_encodeTable, recOffset, Nat.mul_zero, Nat.add_zero, hdrop, encodeChannel, List.append_assoc]
    exact List.take_left' (length_encodeLine _)
  · rw [recordAt, bytesOf_encodeTable, recOffset, ← List.drop_drop, hdrop, encodeChannel, List.append_assoc,
      List.drop_left' (length_encodeLine _)]
    exact List.take_left' (length_encodeLine _)

/-- Settles O18: the two records of a channel are `recordAt_encodeTable`. -/
theorem encodeTablePlacesEveryRecord : Obligations.EncodeTablePlacesEveryRecord := fun t ch =>
  ⟨(recordAt_encodeTable t ch).1, (recordAt_encodeTable t ch).2, length_bytesOf _⟩

theorem tableUnterminated_iff (r : Buf Config.rntSize) :
    tableUnterminated r = true ↔ ∃ ch < 64, ∃ ln < 2, lineUnterminated (recordAt (bytesOf r) ch ln) = true := by
  have hlines : ∀ p : Nat → Prop, (∃ ln < 2, p ln) ↔ p 0 ∨ p 1 := fun p => by
    simp only [Nat.exists_lt_succ_right, Nat.not_lt_zero, false_and, exists_false, false_or]
  simp only [tableUnterminated, List.any_eq_true, List.mem_range, Bool.or_eq_true, hlines, Config.nch]

/-- Settles O19: every slot is decoded from its record, so R168 is what DECODE_LINE gives, and the 128 records are those
of 64 channels of 2 lines. -/
theorem decodeTableReadsEveryRecord : Obligations.DecodeTableReadsEveryRecord := by
  refine fun r => ⟨fun ch => ?slots, ?flag, fun ch => ?short⟩
  case slots => rw [getElem_decodeTable]; exact ⟨rfl, rfl⟩
  case flag =>
    rw [tableUnterminated_iff]
    constructor
    · rintro ⟨ch, hch, ln, hln, h⟩
      refine ⟨2 * ch + ln, by omega, ?_⟩
      rwa [← recordAt_div_mod, show (2 * ch + ln) / 2 = ch by omega, show (2 * ch + ln) % 2 = ln by omega]
    · rintro ⟨k, hk, h⟩
      exact ⟨k / 2, by omega, k % 2, by omega, by rwa [recordAt_div_mod]⟩
  case short =>
    rw [getElem_decodeTable]
    exact ⟨length_decodeLine_le _, zero_notMem_decodeLine _, length_decodeLine_le _, zero_notMem_decodeLine _⟩

/-- Decode of encode, slot by slot (R169 c). -/
theorem getElem_decodeTable_encodeTable (t : NameTable) (ch : Fin 64) :
    (decodeTable (encodeTable t))[ch] =
      ⟨(t[ch].line1.take 8).takeWhile (fun b => b != 0#8), (t[ch].line2.take 8).takeWhile (fun b => b != 0#8)⟩ := by
  obtain ⟨h1, h2⟩ := recordAt_encodeTable t ch
  rw [getElem_decodeTable, decodeChannel, h1, h2, (decodeLine_encodeLine _).1, (decodeLine_encodeLine _).1]

/-- An encoded table terminates every field (R169 c). -/
theorem tableUnterminated_encodeTable (t : NameTable) : tableUnterminated (encodeTable t) = false := by
  rw [← Bool.not_eq_true, tableUnterminated_iff]
  rintro ⟨ch, hch, ln, hln, h⟩
  obtain ⟨h1, h2⟩ := recordAt_encodeTable t ⟨ch, hch⟩
  obtain rfl | rfl : ln = 0 ∨ ln = 1 := by omega
  · rw [h1, (decodeLine_encodeLine _).2] at h; cases h
  · rw [h2, (decodeLine_encodeLine _).2] at h; cases h

/-- A short line without a zero is its own longest zero-free start. -/
theorem takeWhile_nonzero_take_eq_self {s : Line} (hlen : s.length ≤ 8) (hzero : (0 : Byte) ∉ s) :
    (s.take 8).takeWhile (fun b => b != 0#8) = s := by
  rw [List.take_of_length_le hlen, takeWhile_nonzero_eq_self s hzero]

/-- Encode of decode, record by record (R169 d). -/
theorem recordAt_encodeTable_decodeTable (r : Buf Config.rntSize) {ch ln : Nat} (hch : ch < 64) (hln : ln < 2) :
    recordAt (bytesOf (encodeTable (decodeTable r))) ch ln = encodeLine (decodeLine (recordAt (bytesOf r) ch ln)) := by
  obtain ⟨h1, h2⟩ := recordAt_encodeTable (decodeTable r) ⟨ch, hch⟩
  rw [getElem_decodeTable] at h1 h2
  obtain rfl | rfl : ln = 0 ∨ ln = 1 := by omega
  · exact h1
  · exact h2

/-- Settles O20: both compositions act on every record for itself. -/
theorem nameTableRoundTrips : Obligations.NameTableRoundTrips := by
  refine ⟨fun t ch => ?truncates, tableUnterminated_encodeTable, fun t ht => ?identity, fun r k i hk hi => ?canonical⟩
  case truncates => rw [getElem_decodeTable_encodeTable]; exact ⟨rfl, rfl⟩
  case identity =>
    refine Vector.ext fun ch hch => ?_
    obtain ⟨hlen1, hzero1, hlen2, hzero2⟩ := ht ⟨ch, hch⟩
    have hslot := getElem_decodeTable_encodeTable t ⟨ch, hch⟩
    rwa [takeWhile_nonzero_take_eq_self hlen1 hzero1, takeWhile_nonzero_take_eq_self hlen2 hzero2] at hslot
  case canonical =>
    have hch : k / 2 < 64 := by omega
    have hln : k % 2 < 2 := by omega
    have hlen : 8 ≤ (recordAt (bytesOf r) (k / 2) (k % 2)).length := by rw [length_recordAt r hch hln]; omega
    rw [← getElem?_recordAt_div_mod _ k hi, recordAt_encodeTable_decodeTable r hch hln,
      getElem?_encodeLine_decodeLine hlen hi, getElem?_recordAt_div_mod _ k hi]
    refine if_congr (and_congr_right fun _ => forall₂_congr fun j hj => ?_) rfl rfl
    rw [getElem?_recordAt_div_mod _ k (by omega)]

/-! ## The phases and the operations (R170 to R172) -/

/-- Settles O42: each phase by its definition, for the operation that SEQ_OP names. -/
theorem namePhasesConvertTheTable : Obligations.NamePhasesConvertTheTable := by
  refine fun s c => ⟨fun hst hop => ?_, fun hst hop => ?_, fun hst hop => ?_, fun hst hop => ?_⟩
  · simp only [engineStep_nameEnc c hst, phaseNameEnc, hop]
  · simp only [engineStep_nameEnc c hst, phaseNameEnc, hop]
  · simp only [engineStep_nameDec c hst, phaseNameDec, hop]
  · simp only [engineStep_nameDec c hst, phaseNameDec, hop]

/-- Settles O22: ISSUE accepts in a rest state, and the phase is that of `namePhasesConvertTheTable`. -/
theorem encodeNamesEncodesTheTable : Obligations.EncodeNamesEncodesTheTable := by
  intro s t c hrest u
  have hissue := State.issue_accepts .encodeNames (fun s => { s.loadTable t with st := .nameEnc }) hrest
    (r := false) nofun
  exact ⟨congrArg Host.Outcome.next hissue, (namePhasesConvertTheTable u c).1 rfl rfl⟩

/-- Settles O23: ISSUE accepts where RNT holds a table, and the phase is that of `namePhasesConvertTheTable`; where it
holds none, ISSUE refuses. -/
theorem decodeNamesDecodesTheTable : Obligations.DecodeNamesDecodesTheTable := by
  refine fun s c hrest => ⟨fun hvalid => ?accepted, fun hvalid => ?refused⟩
  case accepted =>
    intro u
    have hissue := State.issue_accepts .decodeNames (fun s => { s with st := .nameDec }) hrest (r := true)
      fun _ => hvalid
    obtain ⟨-, -, hdone, -⟩ := namePhasesConvertTheTable u c
    exact ⟨congrArg Host.Outcome.next hissue, hdone rfl rfl⟩
  case refused => simp only [exec, execDecodeNames, State.issue, State.issueCheck_unwritten hrest hvalid, State.refuse]

end Sys2Proof.Machine
end

section
/-! PROOFS of the statements about the command/response engine: what ISSUE answers to a presented operation, and how
RX_DECODE ends an exchange. -/

namespace Sys2Proof

theorem shapeOfCode_eq_rnt {b : BitVec 1} : shapeOfCode b = .rnt ↔ b = 1#1 := by
  revert b
  decide

/-- The selector names no operation (30_encoding.md R111). -/
def Port.reserved (p : Port) : Prop :=
  p.op ∈ [0#4, 6#4, 7#4, 11#4, 12#4, 13#4, 14#4, 15#4]

/-- The presented operation reads RNT: DECODE_NAMES, or a request whose body is the table (R190). -/
def Port.readsRnt (p : Port) : Prop :=
  p.op = 2#4 ∨ ((p.op = 3#4 ∨ p.op = 5#4) ∧ p.body = 1#1)

/-- A selector that is not reserved is one of the eight of R110. -/
theorem Port.op_of_not_reserved {p : Port} (h : ¬ p.reserved) :
    p.op = 1#4 ∨ p.op = 2#4 ∨ p.op = 3#4 ∨ p.op = 4#4 ∨ p.op = 5#4 ∨ p.op = 8#4 ∨ p.op = 9#4 ∨ p.op = 10#4 := by
  revert h
  unfold Port.reserved
  generalize p.op = op
  revert op
  decide

theorem decodePort_reserved {p : Port} (h : p.reserved) : decodePort p = .rejected (.reservedSelector p.op) := by
  obtain ⟨op, cmd, body, exp, table⟩ := p
  simp only [Port.reserved, List.mem_cons, List.not_mem_nil, or_false] at h
  rcases h with rfl | rfl | rfl | rfl | rfl | rfl | rfl | rfl <;> rfl

end Sys2Proof

namespace Sys2Proof.Machine

/-! ## ISSUE (42_command_response_engine.md R190, 60_exceptions.md R275) -/

theorem State.issue_refuses {s : State} {r : Bool} (op : OpSel) (start : State → State)
    (h : s.st.rest = false ∨ (r = true ∧ s.rntValid = false)) : s.issue op r start = { s with opRefused := true } := by
  refine (State.issue_cases s op r start).resolve_right fun ⟨hrest, hvalid, _⟩ => ?_
  rcases h with hbusy | ⟨hr, hunwritten⟩
  · simp [hbusy] at hrest
  · simp [hvalid hr] at hunwritten

/-- SEQ_OP holds the selector of a device operation and no other. -/
theorem OpSel.seqOp_code (op : OpSel) :
    op.seqOp.code = if op.code ∈ [8#4, 9#4, 10#4] then op.code else 0#4 := by
  cases op <;> rfl

theorem OpSel.seqStep_code (op : OpSel) :
    op.seqStep.code = if op.code ∈ [8#4, 9#4, 10#4] then 1#2 else 0#2 := by
  cases op <;> rfl

/-- What the first step of every operation has in common: it enters a busy phase, and keeps what ISSUE has written, the
refusal mark, the bytes pushed and the inputs to come. -/
structure FirstStep (s t : State) : Prop where
  busy : t.st.rest = false
  op : t.op = s.op
  errKind : t.errKind = s.errKind
  errSub : t.errSub = s.errSub
  seqOp : t.seqOp = s.seqOp
  seqStep : t.seqStep = s.seqStep
  opRefused : t.opRefused = s.opRefused
  txs : t.txs = s.txs
  inputs : t.inputs = s.inputs

/-- A first step that latches operands and loads the name table. -/
theorem firstStep_latch_load (s : State) {cmd : U16} {body exp : Shape} {names : NameTable} {valid : Bool} {q : Phase}
    (hq : q.rest = false) :
    FirstStep s { s with
      argCmd := cmd, argBody := body, argExp := exp, lnt := names, lntValid := valid, st := q } :=
  ⟨hq, rfl, rfl, rfl, rfl, rfl, rfl, rfl, rfl⟩

/-- The first step of RECEIVE. -/
theorem firstStep_beginReceive (s : State) (exp : Shape) : FirstStep s (State.beginReceive { s with argExp := exp }) := by
  constructor <;> simp [Phase.rest]

/-- A selector that is not reserved presents its operation to ISSUE. -/
theorem hostIssues_eq_issue {p : Port} (h : ¬ p.reserved) :
    ∃ (op : OpSel) (r : Bool) (start : State → State), (∀ s, hostIssues p s = .next (s.issue op r start)) ∧
      op.code = p.op ∧ (r = true ↔ p.readsRnt) ∧ ∀ s, FirstStep s (start s) := by
  have hop := Port.op_of_not_reserved h
  obtain ⟨op, cmd, body, exp, table⟩ := p
  rcases hop with rfl | rfl | rfl | rfl | rfl | rfl | rfl | rfl
  · exact ⟨.encodeNames, _, _, fun _ => rfl, rfl, by simp [Port.readsRnt], fun s => firstStep_latch_load s rfl⟩
  · exact ⟨.decodeNames, _, _, fun _ => rfl, rfl, by simp [Port.readsRnt], fun s => firstStep_latch_load s rfl⟩
  · exact ⟨.send, _, _, fun _ => rfl, rfl, by simp [Port.readsRnt, shapeOfCode_eq_rnt],
      fun s => firstStep_latch_load s rfl⟩
  · exact ⟨.receive, _, _, fun _ => rfl, rfl, by simp [Port.readsRnt], fun s => firstStep_beginReceive s _⟩
  · exact ⟨.sendReceive, _, _, fun _ => rfl, rfl, by simp [Port.readsRnt, shapeOfCode_eq_rnt],
      fun s => firstStep_latch_load s rfl⟩
  · exact ⟨.opReset, _, _, fun _ => rfl, rfl, by simp [Port.readsRnt], fun s => firstStep_latch_load s rfl⟩
  · exact ⟨.opGetNames, _, _, fun _ => rfl, rfl, by simp [Port.readsRnt], fun s => firstStep_latch_load s rfl⟩
  · exact ⟨.opSetNames, _, _, fun _ => rfl, rfl, by simp [Port.readsRnt], fun s => firstStep_latch_load s rfl⟩

/-- The three reasons to refuse a presented operation (R190, R275). -/
def State.refuses (s : State) (p : Port) : Prop :=
  s.st.rest = false ∨ p.reserved ∨ (p.readsRnt ∧ s.rntValid = false)

theorem hostIssues_refused {p : Port} {s : State} (h : s.refuses p) :
    hostIssues p s = .next { s with opRefused := true } := by
  by_cases hres : p.reserved
  · simp only [hostIssues, decodePort_reserved hres, State.refuse]
  · obtain ⟨op, r, start, hissue, -, hr, -⟩ := hostIssues_eq_issue hres
    rw [hissue, State.issue_refuses op start (by simpa [State.refuses, hres, hr] using h)]

theorem hostIssues_accepted {p : Port} {s : State} (h : ¬ s.refuses p) :
    ∃ op t, op.code = p.op ∧ hostIssues p s = .next t ∧ FirstStep (s.accept op) t := by
  obtain ⟨hrest, hres, hvalid⟩ : s.st.rest = true ∧ ¬ p.reserved ∧ (p.readsRnt → s.rntValid = true) := by
    simpa [State.refuses] using h
  obtain ⟨op, r, start, hissue, hcode, hr, hstart⟩ := hostIssues_eq_issue hres
  exact ⟨op, _, hcode, by rw [hissue, State.issue_accepts op start hrest (hvalid ∘ hr.mp)], hstart _⟩

/-- Settles O21: the stated `refused` is `State.refuses`, and an accepted operation has taken its first step on what
ISSUE wrote. -/
theorem issueRefusesOrAccepts : Obligations.IssueRefusesOrAccepts := by
  intro s p rest hin refused
  have hrefused : refused ↔ State.refuses { s with inputs := rest } p := by
    simp only [refused, State.refuses, Port.reserved, Port.readsRnt]
    tauto
  rw [step_cons hin, hrefused]
  refine ⟨hostIssues_refused, fun h => ?_⟩
  obtain ⟨op, t, hcode, ht, hfirst⟩ := hostIssues_accepted h
  rw [← hcode, ← op.seqOp_code, ← op.seqStep_code]
  exact ⟨t, ht, hfirst.busy, congrArg OpSel.code hfirst.op, hfirst.errKind, hfirst.errSub,
    congrArg SeqOp.code hfirst.seqOp, congrArg SeqStep.code hfirst.seqStep, hfirst.opRefused, hfirst.txs, hfirst.inputs⟩

/-! ## RX_DECODE (42_command_response_engine.md R211, R212) -/

theorem State.copyBody_eq (s : State) : s.copyBody = { s with
    rnt := if s.argExp = .rnt then s.rxbody else s.rnt
    rntValid := if s.argExp = .rnt then true else s.rntValid } := by
  unfold State.copyBody
  split
  · next hexp => rw [if_neg (by simp [hexp]), if_neg (by simp [hexp])]
  · next hexp => rw [if_pos hexp, if_pos hexp]

theorem endExchange_of_no_device_op {s : State} (h : s.seqOp = .none) :
    endExchange s = .next { s.disarm with st := .done } :=
  if_pos h

theorem endExchange_of_device_op {s : State} (h : s.seqOp ≠ .none) : endExchange s = seqNext false s.disarm :=
  if_neg h

/-- Settles O41: the turn is the copy and the end of the exchange, which asks for SEQ_OP, untouched by the copy. -/
theorem rxDecodeCopiesTheBody : Obligations.RxDecodeCopiesTheBody := by
  intro s c hst u
  have hturn : engineStep c s = endExchange s.copyBody := engineStep_rxDecode c hst
  have hdisarm : s.copyBody.disarm = u := by rw [State.copyBody_eq]; rfl
  rw [hturn, ← hdisarm, ← s.copyBody_seqOp]
  exact ⟨endExchange_of_no_device_op, endExchange_of_device_op⟩

end Sys2Proof.Machine
end

section
/-! PROOFS of the statements about the device operations: how the sequencer goes on after each exchange. -/

namespace Sys2Proof.Machine

/-! ## SEQ_NEXT (43_device_operations.md R241) -/

theorem phaseRxDecode_of_device_op {s : State} (h : s.seqOp ≠ .none) :
    phaseRxDecode s = seqNext false s.copyBody.disarm :=
  endExchange_of_device_op (by rwa [s.copyBody_seqOp])

theorem phaseNameDec_of_getNames {s : State} (h : s.seqOp = .getNames) :
    phaseNameDec s = seqNext true { s with
      lnt := decodeTable s.rnt, nameUnterminated := tableUnterminated s.rnt } := by
  simp only [phaseNameDec, h]

theorem seqNext_first_undecoded {s : State} (hstep : s.seqStep = .first) (hop : s.seqOp = .getNames) :
    seqNext false s = .next { s with st := .nameDec } := by
  simp [seqNext, hstep, hop]

/-- The DISCONNECT exchange starts once no name decode is due. -/
theorem seqNext_first_ready {s : State} {decoded : Bool} (hstep : s.seqStep = .first)
    (hready : s.seqOp ≠ .getNames ∨ decoded = true) :
    seqNext decoded s = .next { s with
      seqStep := .second, argCmd := s.cfgDisconnect.code, argBody := .none, argExp := .none, st := .txBuild } := by
  have hnotDue : ¬ (s.seqOp = .getNames ∧ decoded = false) := by
    simpa [imp_iff_not_or] using hready
  simp only [seqNext, hstep]
  exact if_neg hnotDue

theorem seqNext_second {s : State} (decoded : Bool) (hstep : s.seqStep = .second) :
    seqNext decoded s = .next { s with lntValid := s.lntValid || s.seqOp == .getNames, st := .done } := by
  simp only [seqNext, hstep]

/-- Settles O43: both entries run `seqNext`, which asks for SEQ_STEP and, after the first exchange, whether a name
decode is still due. -/
theorem sequencerStartsTheDisconnect : Obligations.SequencerStartsTheDisconnect := by
  refine ⟨fun s c hst hop => ?fromRxDecode, fun s c hst hop => ?fromNameDec, fun s =>
    ⟨seqNext_first_undecoded, fun _ => seqNext_first_ready, fun decoded hstep hop => ?namesDone,
      fun decoded hstep hop => ?othersDone⟩⟩
  case fromRxDecode => rw [engineStep_rxDecode c hst, phaseRxDecode_of_device_op hop]
  case fromNameDec => rw [engineStep_nameDec c hst, phaseNameDec_of_getNames hop]
  case namesDone => simp [seqNext_second decoded hstep, hop]
  case othersDone => simp [seqNext_second decoded hstep, hop]

end Sys2Proof.Machine
end

section
/-! PROOFS of the statements about decoding and encoding: the two maps and the round trips between instructions, headers
and their bytes. -/

namespace Sys2Proof

/-! ## Headers (30_encoding.md R90, R97) -/

theorem decodeHeader_headerBytes_alone (c l : U16) (k : U32) :
    decodeHeader (headerBytes c l k) = decodeFields c l k := by
  rw [← List.append_nil (headerBytes c l k), decodeHeader_headerBytes]

/-- Settles O1: a header decodes by its three fields, a port by its selector and the codes of its shapes. -/
theorem decodeOfEncodeIsIdentity : Obligations.DecodeOfEncodeIsIdentity := by
  intro i
  cases i with
  | nop l k | ack l k | resetUnit l k | nak l k | getChannelNames l k | setChannelNames l k | disconnect17 l k
  | disconnect04 l k => exact decodeHeader_headerBytes_alone _ l k
  | encodeNames | decodeNames | opReset | opGetNames | opSetNames => rfl
  | send cmd body => exact congrArg (fun x => Decoded.instr (.send cmd x)) (shapeOfCode_code body)
  | receive exp => exact congrArg (fun x => Decoded.instr (.receive x)) (shapeOfCode_code exp)
  | sendReceive cmd body exp =>
    exact congrArg₂ (fun x y => Decoded.instr (.sendReceive cmd x y)) (shapeOfCode_code body) (shapeOfCode_code exp)

/-- Settles O3: each row is the one `decodeFields` compares the command with, and without a row nothing is decoded. -/
theorem commandMapIsTheTable : Obligations.CommandMapIsTheTable := by
  refine fun c l k => ⟨rfl, rfl, rfl, rfl, rfl, rfl, rfl, rfl, fun hc => ?_⟩
  simp only [List.mem_cons, List.not_mem_nil, or_false, not_or] at hc
  obtain ⟨h0, h1, h2, h3, h4, h5, h6, h7⟩ := hc
  rw [decodeFields, if_neg h0, if_neg h1, if_neg h2, if_neg h3, if_neg h4, if_neg h5, if_neg h6, if_neg h7]

/-- What decodes from a command, a length and a checksum is encoded by the header of just these. -/
theorem encode_of_decodeFields {c l : U16} {k : U32} {i : Instr} (h : decodeFields c l k = .instr i) :
    encode i = .header (headerBytes c l k) := by
  unfold decodeFields at h
  split_ifs at h with h0 h1 h2 h3 h4 h5 h6 h7
  all_goals
    cases h
    subst c
    rfl

theorem decodeHeader_short {bs : List Byte} (h : bs.length < 8) :
    decodeHeader bs = .rejected (.shortHeader bs.length) :=
  if_pos h

/-- A sequence that is long enough is decoded by its first 8 bytes. -/
theorem decodeHeader_eq_take {bs : List Byte} (h : ¬ bs.length < 8) :
    decodeHeader bs = decodeFields (memRead16 (bs.take 8) 0) (memRead16 (bs.take 8) 2) (memRead32 (bs.take 8) 4) := by
  rw [memRead16_take bs 8 0 (by decide), memRead16_take bs 8 2 (by decide), memRead32_take bs 8 4 (by decide)]
  exact if_neg h

/-- Settles O2: a header decodes by its fields, and 8 bytes are the header of the fields read from them. -/
theorem encodeOfDecodedHeaderIsItsBytes : Obligations.EncodeOfDecodedHeaderIsItsBytes := by
  refine ⟨fun bs i h => ?_, fun bs => decodeHeader_short⟩
  by_cases hshort : bs.length < 8
  · rw [decodeHeader_short hshort] at h
    cases h
  · rw [decodeHeader_eq_take hshort] at h
    rw [encode_of_decodeFields h, headerBytes_memRead _ (by rw [List.length_take]; omega)]

/-- Settles O11: PARSE_HEADER reads the fields that `headerBytes` writes, and 8 bytes are the header of their fields. -/
theorem parseHeaderInvertsHeaderBytes : Obligations.ParseHeaderInvertsHeaderBytes :=
  ⟨fun c l k => Machine.parseHeader_headerBytes c l k [], headerBytes_memRead⟩

/-! ## The port (R110, R111) -/

/-- Settles O4: an assigned selector decodes with its shapes read from their codes, the others are reserved. -/
theorem selectorMapIsTheTable : Obligations.SelectorMapIsTheTable := by
  rintro ⟨op, cmd, body, exp, table⟩
  refine ⟨?_, ?_, ?_, ?_, ?_, ?_, ?_, ?_, ?_, ?_, ?_, ?_, ?_, decodePort_reserved⟩
  all_goals
    intros
    subst_vars
    rfl

/-- Settles O5: each word is decoded by evaluation. -/
theorem wordsOfTheSpecDecode : Obligations.WordsOfTheSpecDecode :=
  ⟨rfl, rfl, rfl, rfl, rfl, rfl, rfl, rfl, rfl⟩

end Sys2Proof

namespace Sys2Proof.Machine

/-! ## Corruption of a frame (40_frame_codec.md R142) -/

/-- Bytes that differ only in one, and there really, have another sum. -/
theorem sum8_set_ne {bs : List Byte} {i : Nat} {b : Byte} (hi : i < bs.length) (hb : bs[i]? ≠ some b) :
    sum8 (bs.set i b) ≠ sum8 bs := by
  intro heq
  have htotal := byteTotal_set bs i b hi
  have hmod : byteTotal (bs.set i b) % 2 ^ 32 = byteTotal bs % 2 ^ 32 := by
    rw [← toNat_sum8, ← toNat_sum8, heq]
  have hne : bs[i].toNat ≠ b.toNat := fun h => hb (by rw [List.getElem?_eq_getElem hi, BitVec.eq_of_toNat_eq h])
  have := bs[i].isLt
  have := b.isLt
  omega

theorem verify_bad_iff (h body : List Byte) :
    (verify h body).ok = false ↔ memRead32 h 4 ≠ neg32 (sum8 (h.take 4 ++ body)) := by
  rw [← Bool.not_eq_true, verify_ok_iff]

/-- After a frame that verifies, the same checksum field fails any other sum. -/
theorem verify_bad_of_sum_ne {h h' body body' : List Byte} (hok : (verify h body).ok = true)
    (hfield : memRead32 h' 4 = memRead32 h 4) (hsum : sum8 (h'.take 4 ++ body') ≠ sum8 (h.take 4 ++ body)) :
    (verify h' body').ok = false := by
  rw [verify_bad_iff, hfield, (verify_ok_iff h body).mp hok, neg32_eq_neg, neg32_eq_neg]
  exact fun h => hsum (neg_injective h).symm

/-- The checksum field is read from the bytes after the first four. -/
theorem memRead32_congr_drop {h h' : List Byte} (hdrop : h'.drop 4 = h.drop 4) : memRead32 h' 4 = memRead32 h 4 := by
  have hbyte (j : Nat) : byteAt h' (4 + j) = byteAt h (4 + j) := by
    rw [byteAt, byteAt, List.getD_eq_getElem?_getD, List.getD_eq_getElem?_getD, ← List.getElem?_drop, hdrop,
      List.getElem?_drop]
  rw [memRead32, memRead32, hbyte 0, hbyte 1, hbyte 2, hbyte 3]

/-- Headers with the same checksum field hold the same four bytes after the first four. -/
theorem drop_eq_of_memRead32_eq {h h' : List Byte} (hl : h.length = 8) (hl' : h'.length = 8)
    (heq : memRead32 h' 4 = memRead32 h 4) : h'.drop 4 = h.drop 4 := by
  have hbytes (g : List Byte) (hg : g.length = 8) : bytes32 (memRead32 g 4) = g.drop 4 := by
    match g, hg with
    | [_, _, _, _, _, _, _, _], _ => exact bytes32_le32 _ _ _ _
  rw [← hbytes h' hl', heq, hbytes h hl]

/-- Settles O14: a changed byte of body or command changes the sum, one of the checksum field the field, and each of the
two fixes the other; a change that keeps the total keeps both. -/
theorem singleByteCorruptionIsDetected : Obligations.SingleByteCorruptionIsDetected := by
  intro h body hlen _ hok
  refine ⟨fun i b hi hb => ?body, fun i b hi h2 h3 hb => ?header, fun h' body' _ hdrop hsum => ?compensated⟩
  case body =>
    refine verify_bad_of_sum_ne hok rfl ?_
    rw [sum8_append, sum8_append]
    exact fun heq => sum8_set_ne hi hb (add_left_cancel heq)
  case header =>
    by_cases hcsum : 4 ≤ i
    · rw [verify_bad_iff, List.take_set_of_le hcsum, ← (verify_ok_iff h body).mp hok]
      intro hfield
      have hdrop := drop_eq_of_memRead32_eq hlen (by rw [List.length_set, hlen]) hfield
      have hbyte := congrArg (fun l => l[i - 4]?) hdrop
      simp only [List.getElem?_drop, Nat.add_sub_cancel' hcsum, List.getElem?_set_self (hlen ▸ hi)] at hbyte
      exact hb hbyte.symm
    · have hlow : i < 4 := by omega
      have hin : i < (h.take 4).length := by rw [List.length_take]; omega
      refine verify_bad_of_sum_ne hok (memRead32_congr_drop (List.drop_set_of_lt hlow)) ?_
      rw [List.take_set, sum8_append, sum8_append]
      exact fun heq => sum8_set_ne hin (by rwa [List.getElem?_take_of_lt hlow]) (add_right_cancel heq)
  case compensated =>
    rw [verify_ok_iff, memRead32_congr_drop hdrop, (verify_ok_iff h body).mp hok, sum8, sum8, byteTotal_eq_sum,
      byteTotal_eq_sum, hsum]

end Sys2Proof.Machine
end

section
/-! PROOFS of the statements about what one instruction does, a host operation or a received header, and about what one
step does with its oldest input. -/

namespace Sys2Proof.Machine

/-! ## Host operations (42_command_response_engine.md R192, R198, R215; 43_device_operations.md R242 to R246) -/

/-- Settles O24: ISSUE accepts, RNT being written when the body reads it. -/
theorem sendStartsTheFrame : Obligations.SendStartsTheFrame := fun _ _ _ hrest hvalid =>
  congrArg Host.Outcome.next (State.issue_accepts .send _ hrest fun h => hvalid (eq_of_beq h))

/-- Settles O25: ISSUE accepts, and the receive part begins on the latched shape. -/
theorem receiveBeginsTheReceivePart : Obligations.ReceiveBeginsTheReceivePart := fun s exp hrest =>
  ⟨_, congrArg Host.Outcome.next (State.issue_accepts .receive _ hrest nofun),
    State.receiveBegun_beginReceive { s.accept .receive with argExp := exp }⟩

/-- Settles O26: ISSUE accepts, RNT being written when the body reads it. -/
theorem sendReceiveStartsTheExchange : Obligations.SendReceiveStartsTheExchange := fun _ _ _ _ hrest hvalid =>
  congrArg Host.Outcome.next (State.issue_accepts .sendReceive _ hrest fun h => hvalid (eq_of_beq h))

/-- Settles O27: ISSUE accepts each of the three in a rest state. -/
theorem deviceOperationsLoadTheirOperands : Obligations.DeviceOperationsLoadTheirOperands := fun _ _ hrest =>
  ⟨congrArg Host.Outcome.next (State.issue_accepts .opReset _ hrest nofun),
    congrArg Host.Outcome.next (State.issue_accepts .opGetNames _ hrest nofun),
    congrArg Host.Outcome.next (State.issue_accepts .opSetNames _ hrest nofun)⟩

/-! ## Failures (60_exceptions.md R265, R266) -/

/-- Settles O44: `State.failedAs_raise` for each failure of the receive part. -/
theorem failRecordsTheCause : Obligations.FailRecordsTheCause := fun s x y e g =>
  ⟨s.raise_writeFail_eq, s.failedAs_raise .readFail nofun, s.failedAs_raise .timeout nofun,
    s.failedAs_raise (.sizeMismatch x y) nofun, s.failedAs_raise (.unrecognized x) nofun,
    s.failedAs_raise (.integrity e g) nofun, s.failedAs_raise (.deviceRejected x) nofun⟩

/-! ## Received headers (42_command_response_engine.md R203 to R206) -/

theorem Shape.size_eq_ite (x : Shape) : x.size = if x = .rnt then 1536#16 else 0#16 := by
  cases x <;> rfl

theorem execAck_sized {s : State} {len : U16} (csum : U32) (h : len = s.argExp.size) :
    execAck len csum s = .next { s with rxcnt := 0, st := .rxBody } :=
  if_pos h

theorem execAck_mismatch {s : State} {len : U16} (csum : U32) (h : len ≠ s.argExp.size) :
    execAck len csum s = .next (s.raise (.sizeMismatch s.argExp.size len)) :=
  if_neg h

/-- Settles O28: ACK compares its length with the size of the expected shape. -/
theorem ackIsSizeChecked : Obligations.AckIsSizeChecked := by
  intro s len csum
  rw [← Shape.size_eq_ite]
  exact ⟨execAck_sized csum, fun h => ⟨_, execAck_mismatch csum h, s.failedAs_raise (.sizeMismatch _ len) nofun⟩⟩

/-- Settles O29: NAK raises the failure that records its own opcode. -/
theorem nakIsDeviceRejected : Obligations.NakIsDeviceRejected := fun s _ _ =>
  ⟨_, rfl, s.failedAs_raise (.deviceRejected Config.opNak) nofun⟩

/-- Settles O30: each of the six raises the failure that records its own opcode. -/
theorem otherCommandsAreUnrecognized : Obligations.OtherCommandsAreUnrecognized := by
  intro s len csum i opcode hrow
  have hexec : exec i s = .next (s.raise (.unrecognized opcode)) := by
    simp only [List.mem_cons, Prod.mk.injEq, List.not_mem_nil, or_false] at hrow
    rcases hrow with ⟨rfl, rfl⟩ | ⟨rfl, rfl⟩ | ⟨rfl, rfl⟩ | ⟨rfl, rfl⟩ | ⟨rfl, rfl⟩ | ⟨rfl, rfl⟩ <;> rfl
  exact ⟨_, hexec, s.failedAs_raise (.unrecognized opcode) nofun⟩

theorem phaseRxValidate_ack {s : State} (h : s.hdrCmd = Config.opAck) :
    phaseRxValidate s = execAck s.hdrLen s.hdrCsum s := by
  rcases phaseRxValidate_cases s with ⟨-, e⟩ | ⟨hnak, -⟩ | ⟨hne, -⟩
  · exact e
  · exact absurd (h.symm.trans hnak) (by decide)
  · exact absurd h hne

theorem phaseRxValidate_nak {s : State} (h : s.hdrCmd = Config.opNak) :
    phaseRxValidate s = .next (s.raise (.deviceRejected s.hdrCmd)) := by
  rcases phaseRxValidate_cases s with ⟨hack, -⟩ | ⟨-, e⟩ | ⟨-, hne, -⟩
  · exact absurd (hack.symm.trans h) (by decide)
  · rw [e, h]
  · exact absurd h hne

theorem phaseRxValidate_other {s : State} (hack : s.hdrCmd ≠ Config.opAck) (hnak : s.hdrCmd ≠ Config.opNak) :
    phaseRxValidate s = .next (s.raise (.unrecognized s.hdrCmd)) := by
  rcases phaseRxValidate_cases s with ⟨h, -⟩ | ⟨h, -⟩ | ⟨-, -, e⟩
  · exact absurd h hack
  · exact absurd h hnak
  · exact e

/-- Settles O31: the command picks the case, and only an ACK goes on to compare its length. -/
theorem validateDispatchesOnTheCommand : Obligations.ValidateDispatchesOnTheCommand := by
  intro s c hst
  rw [engineStep_rxValidate c hst, ← Shape.size_eq_ite]
  refine ⟨fun hack hlen => ?_, fun hack hlen => ?_, fun hnak => ?_, fun hack hnak => ?_⟩
  · rw [phaseRxValidate_ack hack, execAck_sized _ hlen]
  · rw [phaseRxValidate_ack hack, execAck_mismatch _ hlen]
    exact ⟨_, rfl, s.failedAs_raise (.sizeMismatch _ _) nofun⟩
  · exact ⟨_, phaseRxValidate_nak hnak, s.failedAs_raise (.deviceRejected _) nofun⟩
  · exact ⟨_, phaseRxValidate_other hack hnak, s.failedAs_raise (.unrecognized _) nofun⟩

/-! ## A step and its oldest input (00_scope.md R9, R10) -/

/-- Settles O32: the step hands the port to ISSUE, which decodes it. -/
theorem stepRunsTheHostOperation : Obligations.StepRunsTheHostOperation := by
  intro s p rest hin
  rw [step_cons hin, applyInput, hostIssues]
  exact ⟨fun i hi => by rw [hi], fun why hwhy => by rw [hwhy]; rfl⟩

theorem step_engine {s : State} {c : StreamChoice} {rest : List Input} (h : s.inputs = .engine c :: rest) :
    step s = engineStep c { s with inputs := rest } :=
  step_cons h

/-- In RX_VALIDATE the engine runs what its header registers decode to. -/
theorem engineStep_rxValidate_of_decode {s : State} {i : Instr} (c : StreamChoice) (hst : s.st = .rxValidate)
    (hi : decodeHeader (headerBytes s.hdrCmd s.hdrLen s.hdrCsum) = .instr i) : engineStep c s = exec i s := by
  rw [decodeHeader_headerBytes_alone] at hi
  rw [engineStep_rxValidate c hst, phaseRxValidate, hi]

/-- In the parsed phases RXHDR holds the header of the header registers. -/
theorem State.Inv.bytesOf_rxhdr {s : State} (hs : s.Inv) (hst : s.st.parsed = true) :
    bytesOf s.rxhdr = headerBytes s.hdrCmd s.hdrLen s.hdrCsum := by
  have hparse := hs.parsed hst
  simp only [parseHeader, Header.mk.injEq] at hparse
  obtain ⟨hcmd, hlen, hcsum⟩ := hparse
  rw [← hcmd, ← hlen, ← hcsum, headerBytes_memRead _ (length_bytesOf _)]

/-- Settles O33: an engine turn is `engineStep`, RX_VALIDATE runs the decoded header, and RXHDR is that header. -/
theorem stepRunsTheReceivedHeader : Obligations.StepRunsTheReceivedHeader := by
  refine ⟨fun s => step_nil, fun s c rest => step_engine, fun s i hst hi => ⟨fun hin => ?_, fun c rest hin => ?_,
    fun hs => ?_⟩⟩
  · rw [step_nil hin, engineStep_rxValidate_of_decode _ hst hi]
  · rw [step_engine hin]
    exact engineStep_rxValidate_of_decode (s := { s with inputs := rest }) c hst hi
  · rw [hs.bytesOf_rxhdr (by rw [hst]; rfl), hi]

theorem Phase.receiving_of_rest {q : Phase} (h : q.rest = true) : q.receiving = false := by
  rcases Phase.rest_iff.mp h with rfl | rfl | rfl <;> rfl

/-- The timer is disarmed outside the receive part. -/
theorem State.Inv.timer_of_not_receiving {s : State} (hs : s.Inv) (h : s.st.receiving = false) :
    s.tmrArmed = false ∧ s.tmrExpired = false := by
  have harmed : s.tmrArmed = false := hs.armed.trans h
  exact ⟨harmed, by simpa [harmed] using mt hs.expired⟩

/-- Settles O34: the engine has no step in a rest state, which is no phase of the receive part. -/
theorem restStatesRest : Obligations.RestStatesRest := fun _ c hrest =>
  ⟨engineStep_rest c hrest, fun hin => by rw [step_nil hin, engineStep_rest _ hrest],
    fun hs => hs.timer_of_not_receiving (Phase.receiving_of_rest hrest)⟩

/-- Settles O35: each event is its own arm of `applyInput`, and an expiry asks for TMR_ARMED. -/
theorem eventsTouchOnlyTheirOwnState : Obligations.EventsTouchOnlyTheirOwnState := by
  intro s rest bs
  refine ⟨fun hin harmed => ?_, fun hin harmed => ?_, fun hin => step_cons hin, fun hin => step_cons hin,
    fun hin => step_cons hin, fun hin => step_cons hin⟩
  · rw [step_cons hin, applyInput, State.expire, if_pos harmed]
  · rw [step_cons hin, applyInput, State.expire, if_neg (by simp [harmed])]

/-! ## Reset (10_state.md R46, 70_reset_and_hazards.md R300, R301) -/

theorem State.status_reset : State.reset.status = 0 := rfl

/-- Settles O46: both forms of the event write the reset state but for the fields they are said to keep. -/
theorem resetGivesTheStatedValues : Obligations.ResetGivesTheStatedValues := by
  refine ⟨⟨⟨rfl, rfl, rfl, rfl, rfl, rfl, rfl, rfl, State.status_reset, rfl, rfl⟩, rfl⟩,
    fun s already rest hin => ?fresh, fun s rest hin => ?reuse⟩
  case fresh =>
    exact ⟨_, step_cons hin, ⟨rfl, rfl, rfl, rfl, rfl, rfl, rfl, rfl, State.status_reset, rfl, rfl⟩, rfl, rfl, rfl, rfl,
      rfl, rfl⟩
  case reuse =>
    refine ⟨_, step_cons hin, ⟨rfl, rfl, rfl, rfl, rfl, rfl, rfl, rfl, State.status_reset, rfl, rfl⟩, rfl, rfl, rfl, rfl,
      rfl, fun hrest hreliable => if_neg ?_⟩
    simp [State.busy, hrest, hreliable]

end Sys2Proof.Machine
end

section
/-! PROOFS of the statements about one phase of the engine on the streams: what TX_SEND, RX_HDR, RX_BODY and RX_VERIFY
answer, outcome by outcome of the push or the take. -/

namespace Sys2Proof.Machine

/-! ## TX_SEND (42_command_response_engine.md R196, R197) -/

theorem State.pushOutcome_ready {s : State} (hopen : s.closed = false) (hflow : s.txStalled = false) :
    s.pushOutcome .ready = .accepted := by
  simp [State.pushOutcome, hopen, hflow]

theorem State.pushOutcome_writeFail {s : State} {c : StreamChoice} (h : s.closed = true ∨ c = .fail) :
    s.pushOutcome c = .writeFail := by
  rcases h with hclosed | rfl
  · exact State.pushOutcome_closed c hclosed
  · simp [State.pushOutcome]

section
variable {c : StreamChoice} {s : State} {b : Byte} (hlt : s.txcnt < s.txlen)
  (hb : (bytesOf s.txbuf)[s.txcnt.toNat]? = some b)
include hlt hb

theorem phaseTxSend_accepted (ho : s.pushOutcome c = .accepted) :
    phaseTxSend c s = .next { s.pushByte b with txcnt := s.txcnt + 1 } := by
  simp [phaseTxSend, hlt, hb, ho]

theorem phaseTxSend_writeFail (ho : s.pushOutcome c = .writeFail) :
    phaseTxSend c s = .next (s.raise .writeFail) := by
  simp [phaseTxSend, hlt, hb, ho]

theorem phaseTxSend_notYet (ho : s.pushOutcome c = .notYet) : phaseTxSend c s = .next s := by
  simp [phaseTxSend, hlt, hb, ho]

end

theorem phaseTxSend_sent {c : StreamChoice} {s : State} (hout : ¬ s.txcnt < s.txlen) (ho : s.op = .send) :
    phaseTxSend c s = .next { s with st := .done } := by
  rw [phaseTxSend, if_neg hout, if_pos ho]

theorem phaseTxSend_listen {c : StreamChoice} {s : State} (hout : ¬ s.txcnt < s.txlen) (ho : s.op ≠ .send) :
    phaseTxSend c s = .next s.beginReceive := by
  rw [phaseTxSend, if_neg hout, if_neg ho]

/-- A byte still to be pushed stands in TXBUF. -/
theorem State.getElem?_txbuf {s : State} (hlen : s.txlen.toNat ≤ 1544) (hlt : s.txcnt < s.txlen) :
    ∃ b, (bytesOf s.txbuf)[s.txcnt.toNat]? = some b := by
  have hin : s.txcnt.toNat < (bytesOf s.txbuf).length := by
    rw [length_bytesOf]
    exact (BitVec.lt_def.mp hlt).trans_le hlen
  exact ⟨_, List.getElem?_eq_getElem hin⟩

/-- Settles O37: a byte to push stands in TXBUF, and the push has the outcome its premise names; with none to push, OP
decides. -/
theorem txSendPushesInOrder : Obligations.TxSendPushesInOrder := by
  intro s c hst hlen
  rw [engineStep_txSend c hst]
  refine ⟨?accepted, ?writeFail, ?notYet, phaseTxSend_sent, fun hout ho => ?listen⟩
  case accepted =>
    rintro hlt hopen hflow rfl
    obtain ⟨b, hb⟩ := s.getElem?_txbuf hlen hlt
    exact ⟨b, hb, phaseTxSend_accepted hlt hb (s.pushOutcome_ready hopen hflow)⟩
  case writeFail =>
    intro hlt hfail
    obtain ⟨b, hb⟩ := s.getElem?_txbuf hlen hlt
    rw [phaseTxSend_writeFail hlt hb (s.pushOutcome_writeFail hfail), State.raise_writeFail_eq]
  case notYet =>
    intro hlt hopen hwait
    obtain ⟨b, hb⟩ := s.getElem?_txbuf hlen hlt
    exact phaseTxSend_notYet hlt hb (s.pushOutcome_notYet.mpr ⟨hopen, hwait⟩)
  case listen => exact ⟨_, phaseTxSend_listen hout ho, s.receiveBegun_beginReceive⟩

/-! ## RX_HDR and RX_BODY (R201, R202, R207; 20_memory.md R68, 60_exceptions.md R269) -/

theorem State.takeOutcome_readFail {s : State} {c : StreamChoice} (hlive : s.tmrExpired = false)
    (h : s.closed = true ∨ c = .fail) : s.takeOutcome c = .readFail := by
  rcases h with hclosed | rfl
  · exact State.takeOutcome_closed c hlive hclosed
  · exact State.takeOutcome_fail hlive

section
variable {c : StreamChoice} {s : State}

section
variable (hlt : s.rxcnt.toNat < 8)
include hlt

theorem phaseRxHdr_timeout (ho : s.takeOutcome c = .timeout) : phaseRxHdr c s = .next (s.raise .timeout) := by
  simp [phaseRxHdr, hlt, ho]

theorem phaseRxHdr_readFail (ho : s.takeOutcome c = .readFail) : phaseRxHdr c s = .next (s.raise .readFail) := by
  simp [phaseRxHdr, hlt, ho]

theorem phaseRxHdr_byte {b : Byte} (ho : s.takeOutcome c = .byte b) :
    phaseRxHdr c s = .next { s.dropHead with
      rxhdr := s.rxhdr.setIfInBounds s.rxcnt.toNat b, rxcnt := s.rxcnt + 1 } := by
  simp [phaseRxHdr, hlt, ho]

theorem phaseRxHdr_wait (ho : s.takeOutcome c = .wait) : phaseRxHdr c s = .next s := by
  simp [phaseRxHdr, hlt, ho]

end

theorem phaseRxHdr_parsed (hfull : ¬ s.rxcnt.toNat < 8) :
    phaseRxHdr c s = .next { s with
      hdrCmd := (parseHeader (bytesOf s.rxhdr)).command
      hdrLen := (parseHeader (bytesOf s.rxhdr)).bodyLength
      hdrCsum := (parseHeader (bytesOf s.rxhdr)).checksum
      st := .rxValidate } :=
  if_neg hfull

section
variable (hlt : s.rxcnt < s.hdrLen)
include hlt

theorem phaseRxBody_timeout (ho : s.takeOutcome c = .timeout) : phaseRxBody c s = .next (s.raise .timeout) := by
  simp [phaseRxBody, hlt, ho]

theorem phaseRxBody_readFail (ho : s.takeOutcome c = .readFail) : phaseRxBody c s = .next (s.raise .readFail) := by
  simp [phaseRxBody, hlt, ho]

theorem phaseRxBody_byte (hlen : s.hdrLen.toNat ≤ 1536) {b : Byte} (ho : s.takeOutcome c = .byte b) :
    phaseRxBody c s = .next { s.dropHead with
      rxbody := s.rxbody.setIfInBounds s.rxcnt.toNat b, rxcnt := s.rxcnt + 1 } := by
  have hin : s.rxcnt.toNat < 1536 := (BitVec.lt_def.mp hlt).trans_le hlen
  simp [phaseRxBody, hlt, ho, hin]

theorem phaseRxBody_wait (ho : s.takeOutcome c = .wait) : phaseRxBody c s = .next s := by
  simp [phaseRxBody, hlt, ho]

end

theorem phaseRxBody_full (hfull : ¬ s.rxcnt < s.hdrLen) : phaseRxBody c s = .next { s with st := .rxVerify } :=
  if_neg hfull

end

/-- A timeout and a read failure write no context register. -/
theorem State.failedAs_timeout (s : State) : State.failedAs s (s.raise .timeout) .transport .timeout :=
  s.failedAs_raise .timeout nofun

theorem State.failedAs_readFail (s : State) : State.failedAs s (s.raise .readFail) .transport .readFail :=
  s.failedAs_raise .readFail nofun

/-- A byte taken when RXS holds `b :: rest` leaves `rest`. -/
theorem State.dropHead_of_cons {s : State} {b : Byte} {rest : List Byte} (h : s.rxs = b :: rest) :
    s.dropHead = { s with rxs := rest } := by
  rw [State.dropHead, h, List.tail_cons]

/-- Settles O38: while RXCNT is below 8 the outcome of the take decides, and then the header is parsed. -/
theorem rxHdrTakesEightBytes : Obligations.RxHdrTakesEightBytes := by
  intro s c hst
  rw [engineStep_rxHdr c hst]
  refine ⟨fun hlt hexp => ⟨_, phaseRxHdr_timeout hlt (s.takeOutcome_expired c hexp), s.failedAs_timeout⟩,
    fun hlt hlive hfail => ⟨_, phaseRxHdr_readFail hlt (s.takeOutcome_readFail hlive hfail), s.failedAs_readFail⟩,
    fun b rest hlt hlive hopen hc hrxs => ?byte,
    fun hlt hlive hopen hc hrxs => phaseRxHdr_wait hlt (s.takeOutcome_empty hlive hopen hc hrxs),
    phaseRxHdr_parsed⟩
  case byte =>
    refine ⟨_, phaseRxHdr_byte hlt (s.takeOutcome_cons hlive hopen hc hrxs), bytesOf_setIfInBounds _ _ _, ?_⟩
    rw [State.dropHead_of_cons hrxs]

/-- Settles O39: while RXCNT is below HDR_LEN the outcome of the take decides, and then the body is there. -/
theorem rxBodyTakesExactlyTheLength : Obligations.RxBodyTakesExactlyTheLength := by
  intro s c hst hlen
  rw [engineStep_rxBody c hst]
  refine ⟨fun hlt hexp => ⟨_, phaseRxBody_timeout hlt (s.takeOutcome_expired c hexp), s.failedAs_timeout⟩,
    fun hlt hlive hfail => ⟨_, phaseRxBody_readFail hlt (s.takeOutcome_readFail hlive hfail), s.failedAs_readFail⟩,
    fun b rest hlt hlive hopen hc hrxs => ?byte,
    fun hlt hlive hopen hc hrxs => phaseRxBody_wait hlt (s.takeOutcome_empty hlive hopen hc hrxs),
    phaseRxBody_full⟩
  case byte =>
    refine ⟨_, phaseRxBody_byte hlt hlen (s.takeOutcome_cons hlive hopen hc hrxs), bytesOf_setIfInBounds _ _ _, ?_⟩
    rw [State.dropHead_of_cons hrxs]

/-! ## RX_VERIFY (R209) -/

theorem phaseRxVerify_ok {s : State} (hlen : s.hdrLen.toNat ≤ 1536)
    (hok : (verify (bytesOf s.rxhdr) ((bytesOf s.rxbody).take s.hdrLen.toNat)).ok = true) :
    phaseRxVerify s = .next { s with
      sum := (verify (bytesOf s.rxhdr) ((bytesOf s.rxbody).take s.hdrLen.toNat)).sum, st := .rxDecode } := by
  rw [phaseRxVerify, if_pos hlen]
  exact if_pos hok

theorem phaseRxVerify_bad {s : State} (hlen : s.hdrLen.toNat ≤ 1536)
    (hbad : ¬ (verify (bytesOf s.rxhdr) ((bytesOf s.rxbody).take s.hdrLen.toNat)).ok = true) :
    phaseRxVerify s = .next (State.raise
      { s with sum := (verify (bytesOf s.rxhdr) ((bytesOf s.rxbody).take s.hdrLen.toNat)).sum }
      (.integrity (verify (bytesOf s.rxhdr) ((bytesOf s.rxbody).take s.hdrLen.toNat)).expected
        (verify (bytesOf s.rxhdr) ((bytesOf s.rxbody).take s.hdrLen.toNat)).got)) := by
  rw [phaseRxVerify, if_pos hlen]
  exact if_neg hbad

/-- Settles O40: `verify_ok_iff` is the comparison of the two checksums. -/
theorem rxVerifyChecksTheFrame : Obligations.RxVerifyChecksTheFrame := by
  intro s c hst hlen body sum got
  rw [engineStep_rxVerify c hst]
  have hok : (verify (bytesOf s.rxhdr) body).ok = true ↔ got = checksum sum := verify_ok_iff _ _
  refine ⟨fun hgot => phaseRxVerify_ok hlen (hok.mpr hgot), fun hgot => ?_⟩
  exact ⟨_, phaseRxVerify_bad hlen (mt hok.mp hgot), State.failedAs_raise _ _ nofun⟩

end Sys2Proof.Machine
end

section
/-! PROOFS of the statements about the invariant: it holds after reset, every step keeps it, and under it every step goes
on. -/

namespace Sys2Proof.Machine

/-! ## The invariant in three parts -/

/-- The clauses of the invariant that do not look at ST. -/
structure State.RegistersInv (s : State) : Prop where
  seqOp : s.seqOp = s.op.seqOp
  seqStep : s.seqStep = .zero ↔ s.seqOp = .none
  firstExchange : s.seqStep = .first → s.op.firstOperands = some (s.argCmd, s.argBody, s.argExp)
  secondExchange : s.seqStep = .second →
    s.argCmd = s.cfgDisconnect.code ∧ s.argBody = .none ∧ s.argExp = .none
  errRow : s.errKind.row s.errSub = true
  unreliable : s.errKind = .transport → s.connUnreliable = true
  txlen : s.txlen = 0#11 ∨ s.txlen = 8#11 ∨ s.txlen = 1544#11
  txcnt : s.txcnt ≤ s.txlen

/-- The clauses that tie a flag or an error register to ST. -/
structure State.FlagsInv (s : State) : Prop where
  armed : s.tmrArmed = s.st.receiving
  expired : s.tmrExpired = true → s.tmrArmed = true
  failed : s.errKind ≠ .none ↔ s.st = .failed
  withheld : s.op = .opGetNames → s.lntValid = true → s.st = .done

/-- The header registers hold the parse of RXHDR. -/
def State.headerParsed (s : State) : Prop :=
  parseHeader (bytesOf s.rxhdr) = ⟨s.hdrCmd, s.hdrLen, s.hdrCsum⟩

/-- The header is that of an ACK with a body of the expected size, of which no more has been taken than there is. -/
def State.bodyExpected (s : State) : Prop :=
  s.hdrCmd = Config.opAck ∧ s.hdrLen = s.argExp.size ∧ s.rxcnt ≤ s.hdrLen

/-- The frame being pushed is the one constructed from the operand latches, and its bytes so far end TXS. -/
def State.framePushed (s : State) : Prop :=
  (bytesOf s.txbuf).take s.txcnt.toNat <:+ s.txs ∧
    (bytesOf s.txbuf).take s.txlen.toNat = construct s.argCmd s.requestBody

/-- The verdict of RX_VERIFY on the frame received. -/
def State.frameOk (s : State) : Bool :=
  (verify (bytesOf s.rxhdr) ((bytesOf s.rxbody).take s.hdrLen.toNat)).ok

/-- What the invariant asks of a state in phase `q` beside the clauses on registers and flags. -/
def State.PhaseInv (s : State) : Phase → Prop
  | .txBuild => s.argBody = .rnt → s.rntValid = true
  | .txSend => s.framePushed
  | .rxHdr => s.rxcnt.toNat ≤ Config.hdrSize
  | .rxValidate => s.headerParsed
  | .rxBody | .rxVerify => s.headerParsed ∧ s.bodyExpected
  | .rxDecode => s.headerParsed ∧ s.bodyExpected ∧ s.frameOk = true
  | .nameEnc => s.op = .encodeNames ∨ s.op = .opSetNames
  | .nameDec => (s.op = .decodeNames ∨ (s.op = .opGetNames ∧ s.seqStep = .first)) ∧ s.rntValid = true
  | .idle | .done | .failed => True

theorem State.Inv.registers {s : State} (h : s.Inv) : s.RegistersInv := { h with }

theorem State.Inv.flags {s : State} (h : s.Inv) : s.FlagsInv := { h with }

theorem State.Inv.phase {s : State} (h : s.Inv) : s.PhaseInv s.st := by
  cases hst : s.st with
  | idle | done | failed => trivial
  | txBuild => exact h.rntWritten hst
  | txSend => exact ⟨h.pushed hst, h.frame hst⟩
  | rxHdr => exact h.hdrCount hst
  | rxValidate => exact h.parsed (hst ▸ rfl)
  | rxBody | rxVerify => exact ⟨h.parsed (hst ▸ rfl), h.sized (hst ▸ rfl)⟩
  | rxDecode => exact ⟨h.parsed (hst ▸ rfl), h.sized (hst ▸ rfl), h.verified hst⟩
  | nameEnc => exact h.nameEnc hst
  | nameDec => exact h.nameDec hst

theorem State.PhaseInv.headerParsed {s : State} {q : Phase} (h : s.PhaseInv q) (hq : q.parsed = true) :
    s.headerParsed := by
  cases q with
  | rxValidate => exact h
  | rxBody | rxVerify | rxDecode => exact h.1
  | idle | txBuild | txSend | rxHdr | done | failed | nameEnc | nameDec => cases hq

theorem State.PhaseInv.bodyExpected {s : State} {q : Phase} (h : s.PhaseInv q) (hq : q.sized = true) :
    s.bodyExpected := by
  cases q with
  | rxBody | rxVerify => exact h.2
  | rxDecode => exact h.2.1
  | idle | txBuild | txSend | rxHdr | rxValidate | done | failed | nameEnc | nameDec => cases hq

/-- The three parts are the whole invariant. -/
theorem State.inv_of_parts {s : State} (hr : s.RegistersInv) (hf : s.FlagsInv) (hp : s.PhaseInv s.st) : s.Inv :=
  have at_phase {q : Phase} (h : s.st = q) : s.PhaseInv q := h ▸ hp
  { hr, hf with
    pushed := fun h => (at_phase h).1
    frame := fun h => (at_phase h).2
    hdrCount := fun h => at_phase h
    parsed := hp.headerParsed
    sized := hp.bodyExpected
    verified := fun h => (at_phase h).2.2
    rntWritten := fun h => at_phase h
    nameEnc := fun h => at_phase h
    nameDec := fun h => at_phase h }

/-- The invariant does not speak of the inputs, of RXS, of the stream's condition and of OP_REFUSED. -/
theorem State.Inv.env {s : State} (h : s.Inv) (inputs : List Input) (rxs : List Byte) (closed stalled refused : Bool) :
    ({ s with
      inputs := inputs, rxs := rxs, closed := closed, txStalled := stalled, opRefused := refused } : State).Inv :=
  { h with }

/-- Settles O48: each part is a finite fact about the reset state. -/
theorem resetMeetsTheInvariant : Obligations.ResetMeetsTheInvariant := by
  refine State.inv_of_parts ?_ ?_ trivial
  · constructor <;> decide
  · constructor <;> decide

/-- A busy block has no failure recorded, and its LNT is withheld in OP_GET_NAMES. -/
theorem State.FlagsInv.of_busy {s : State} (h : s.FlagsInv) (hst : s.st.rest = false) :
    s.errKind = .none ∧ (s.op = .opGetNames → s.lntValid = false) := by
  constructor
  · by_contra hk
    rw [h.failed.mp hk] at hst
    cases hst
  · intro ho
    by_contra hl
    rw [h.withheld ho (by simpa using hl)] at hst
    cases hst

/-! ## An engine turn -/

theorem length_construct_requestBody (s : State) :
    (construct s.argCmd s.requestBody).length = if s.argBody = .rnt then 1544 else 8 := by
  rw [length_construct, State.requestBody_eq_ite]
  split <;> simp

theorem Failure.kind_row (f : Failure) : f.kind.row f.sub = true ∧ f.kind ≠ .none := by
  cases f <;> exact ⟨rfl, nofun⟩

theorem State.RegistersInv.raise {s : State} (h : s.RegistersInv) (f : Failure) : (s.raise f).RegistersInv where
  seqOp := by simpa using h.seqOp
  seqStep := by simpa using h.seqStep
  firstExchange := by simpa using h.firstExchange
  secondExchange := by simpa using h.secondExchange
  errRow := by simpa using f.kind_row.1
  unreliable := by simp +contextual
  txlen := by simpa using h.txlen
  txcnt := by simpa using h.txcnt

theorem State.RegistersInv.beginReceive {s : State} (h : s.RegistersInv) : s.beginReceive.RegistersInv := by
  rw [(State.receiveBegun_beginReceive s).1]
  exact { h with }

theorem State.RegistersInv.copyBody_disarm {s : State} (h : s.RegistersInv) : s.copyBody.disarm.RegistersInv := by
  rw [State.copyBody_eq]
  exact { h with }

theorem State.RegistersInv.toDisconnect {s : State} (h : s.RegistersInv) (hstep : s.seqStep = .first) {cmd : U16}
    (hcmd : cmd = s.cfgDisconnect.code) :
    ({ s.latch cmd .none .none with seqStep := .second } : State).RegistersInv :=
  { h with
    seqStep := by simpa [hstep] using h.seqStep
    firstExchange := nofun
    secondExchange := fun _ => ⟨hcmd, rfl, rfl⟩ }

theorem Turn.registersInv {s t : State} (hs : s.RegistersInv) (h : Turn s t) : t.RegistersInv := by
  cases h with
  | stay | sent | takeHeader | parsed | accepted | takeBody | bodyThere | verified | encoded | encodedToSend | decoded
  | decodedAtEnd => exact { hs with }
  | build =>
    refine { hs with txlen := ?_, txcnt := BitVec.le_def.mpr (Nat.zero_le _) }
    dsimp only
    rw [length_construct_requestBody]
    split <;> simp
  | push _ hlt =>
    exact { hs with txcnt := show s.txcnt + 1 ≤ s.txlen by bv_omega }
  | writeFail => exact hs.raise _
  | failed f _ u => exact State.RegistersInv.raise (s := { s with sum := u }) { hs with } f
  | listen => exact hs.beginReceive
  | received | toDecode | sequenced => exact { hs.copyBody_disarm with }
  | toDisconnect _ hstep =>
    have := hs.copyBody_disarm.toDisconnect (cmd := s.cfgDisconnect.code) (by simpa using hstep) (by simp)
    exact { this with }
  | decodedToDisconnect _ hstep => exact { hs.toDisconnect hstep rfl with }


theorem State.FlagsInv.raise {s : State} (h : s.FlagsInv) (hst : s.st.rest = false) (f : Failure) :
    (s.raise f).FlagsInv where
  armed := by simp [Phase.receiving]
  expired := by simp
  failed := by simp [f.kind_row.2]
  withheld := by
    have := (h.of_busy hst).2
    simp_all

theorem Turn.flagsInv {s t : State} (hs : s.FlagsInv) (h : Turn s t) : t.FlagsInv := by
  cases h with
  | stay | push | takeHeader | takeBody => exact { hs with }
  | build h | sent h | listen h | parsed h | accepted h | bodyThere h | verified h | received h
  | toDecode h | toDisconnect h | sequenced h | encoded h | encodedToSend h | decoded h | decodedToDisconnect h
  | decodedAtEnd h => 
    obtain ⟨hnone, hwith⟩ := hs.of_busy (by rw [h]; rfl)
    have harmed := hs.armed
    have hexpired := hs.expired
    constructor <;> simp_all [Phase.receiving]
  | writeFail h => exact hs.raise (by rw [h]; rfl) _
  | failed f hf u hr hd =>
    exact State.FlagsInv.raise (s := { s with sum := u }) { hs with } (Phase.edge_failed_of_receiving hr hd).1 f

/-- The length of a request's frame fits in TXLEN. -/
theorem State.toNat_txlen_build (s : State) :
    (BitVec.ofNat 11 (construct s.argCmd s.requestBody).length).toNat = (construct s.argCmd s.requestBody).length := by
  have := s.length_requestFrame_le
  rw [BitVec.toNat_ofNat, Nat.mod_eq_of_lt (by omega)]

/-- A further byte of the frame pushed. -/
theorem State.framePushed.push {s : State} (h : s.framePushed) {b : Byte} (hlt : s.txcnt < s.txlen)
    (hb : (bytesOf s.txbuf)[s.txcnt.toNat]? = some b) :
    ({ s.pushByte b with txcnt := s.txcnt + 1 } : State).framePushed := by
  obtain ⟨⟨before, hbefore⟩, hframe⟩ := h
  refine ⟨⟨before, ?_⟩, hframe⟩
  have hcnt : (s.txcnt + 1).toNat = s.txcnt.toNat + 1 := by bv_omega
  show before ++ (bytesOf s.txbuf).take (s.txcnt + 1).toNat = s.txs ++ [b]
  rw [hcnt, List.take_add_one, hb, ← List.append_assoc, hbefore]
  rfl

/-- SEQ_OP names OP_GET_NAMES only when OP does. -/
theorem State.RegistersInv.op_of_getNames {s : State} (h : s.RegistersInv) (hq : s.seqOp = .getNames) :
    s.op = .opGetNames := by
  have := h.seqOp.symm.trans hq
  cases ho : s.op <;> simp [ho, OpSel.seqOp] at this ⊢

/-- The first exchange of OP_GET_NAMES expects a table. -/
theorem State.RegistersInv.argExp_of_getNames {s : State} (h : s.RegistersInv) (hq : s.seqOp = .getNames)
    (hstep : s.seqStep = .first) : s.argExp = .rnt := by
  have hops := h.firstExchange hstep
  rw [h.op_of_getNames hq, OpSel.firstOperands] at hops
  simp only [Option.some.injEq, Prod.mk.injEq] at hops
  exact hops.2.2.symm

theorem Turn.phaseInv {s t : State} (hs : s.Inv) (h : Turn s t) : t.PhaseInv t.st := by
  have hphase := hs.phase
  cases h with
  | stay => exact hphase
  | writeFail => rw [State.raise_st]; trivial
  | failed => rw [State.raise_st]; trivial
  | sent | received | sequenced | encoded | decoded | decodedAtEnd => trivial
  | toDisconnect | decodedToDisconnect => exact nofun
  | encodedToSend => exact fun _ => rfl
  | parsed => rfl
  | build =>
    refine ⟨List.nil_suffix, ?_⟩
    dsimp only
    rw [s.toNat_txlen_build]
    exact s.take_txbuf_putFrame s.length_requestFrame_le
  | push h hlt b hb =>
    rw [h] at hphase
    simp only [State.pushByte_st, h]
    exact hphase.push hlt hb
  | listen =>
    rw [State.beginReceive_st]
    exact Nat.zero_le 8
  | takeHeader h hlt =>
    simp only [h, State.dropHead_st]
    exact show (s.rxcnt + 1).toNat ≤ 8 by bv_omega
  | accepted h hc hl =>
    rw [h] at hphase
    exact ⟨hphase, hc, hl, BitVec.le_def.mpr (Nat.zero_le _)⟩
  | takeBody h hlt =>
    rw [h] at hphase
    obtain ⟨hparsed, hcmd, hlen, -⟩ := hphase
    simp only [h, State.dropHead_st]
    exact ⟨hparsed, hcmd, hlen, show s.rxcnt + 1 ≤ s.hdrLen by bv_omega⟩
  | bodyThere h =>
    rw [h] at hphase
    exact hphase
  | verified h hv =>
    rw [h] at hphase
    exact ⟨hphase.1, hphase.2, hv⟩
  | toDecode _ hstep hq =>
    have hop := hs.registers.op_of_getNames hq
    have hexp := hs.registers.argExp_of_getNames hq hstep
    exact ⟨.inr ⟨by simpa using hop, by simpa using hstep⟩, by simp [hexp]⟩

theorem Turn.keepsInv {s t : State} (hs : s.Inv) (h : Turn s t) : t.Inv :=
  State.inv_of_parts (h.registersInv hs.registers) (h.flagsInv hs.flags) (h.phaseInv hs)

/-! ## The other inputs -/

/-- An accepted operation whose latches suit it meets the clauses on the registers. -/
theorem State.RegistersInv.accept {s : State} (hs : s.RegistersInv) {op : OpSel} {cmd : U16} {body exp : Shape}
    (hops : op.seqStep = .first → op.firstOperands = some (cmd, body, exp)) :
    ({ s.accept op with argCmd := cmd, argBody := body, argExp := exp } : State).RegistersInv :=
  { hs with
    seqOp := rfl
    seqStep := by cases op <;> simp [OpSel.seqStep, OpSel.seqOp]
    firstExchange := hops
    secondExchange := by cases op <;> simp [OpSel.seqStep]
    errRow := rfl
    unreliable := nofun }

/-- An accepted operation whose latches suit it meets the invariant in a first phase that does not receive. -/
theorem State.Inv.start {s : State} (hs : s.Inv) (hrest : s.st.rest = true) (op : OpSel) {cmd : U16} {body exp : Shape}
    {names : NameTable} {valid : Bool} {q : Phase}
    (hops : op.seqStep = .first → op.firstOperands = some (cmd, body, exp))
    (hquiet : q.receiving = false) (hlive : q ≠ .failed) (hwithheld : op = .opGetNames → valid = false)
    (hphase : ({ s.accept op with
      argCmd := cmd, argBody := body, argExp := exp, lnt := names, lntValid := valid, st := q } : State).PhaseInv q) :
    ({ s.accept op with
      argCmd := cmd, argBody := body, argExp := exp, lnt := names, lntValid := valid, st := q } : State).Inv := by
  obtain ⟨harmed, hexpired⟩ := hs.timer_of_not_receiving (Phase.receiving_of_rest hrest)
  refine State.inv_of_parts { hs.registers.accept hops with } ⟨?_, ?_, ?_, fun ho hv => ?_⟩ hphase
  · simp [harmed, hquiet]
  · simp [hexpired]
  · simp [hlive]
  · simp [hwithheld ho] at hv

/-- RECEIVE, accepted, meets the invariant in RX_HDR. -/
theorem State.Inv.start_receive {s : State} (hs : s.Inv) (exp : Shape) :
    (State.beginReceive { s.accept .receive with argExp := exp }).Inv := by
  have hreg := (hs.registers.accept (op := .receive) (cmd := s.argCmd) (body := s.argBody) (exp := exp) nofun)
  refine State.inv_of_parts hreg.beginReceive ⟨?_, ?_, ?_, ?_⟩ ?_
  · simp [Phase.receiving]
  · simp
  · simp
  · simp
  · rw [State.beginReceive_st]
    exact Nat.zero_le 8

theorem hostIssues_keepsInv {p : Port} {s t : State} (hs : s.Inv) (h : hostIssues p s = .next t) : t.Inv := by
  obtain ⟨u, hu, hcases⟩ := hostIssues_cases p s
  obtain rfl : u = t := by simpa [hu] using h
  rcases hcases with rfl | ⟨hrest, hstart⟩
  · exact hs.env _ _ _ _ _
  rcases hstart with ⟨_, rfl⟩ | ⟨hv, rfl⟩ | ⟨_, _, hv, rfl⟩ | ⟨exp, rfl⟩ | ⟨_, _, _, hv, rfl⟩ | rfl | rfl | ⟨_, rfl⟩
  · exact hs.start hrest .encodeNames nofun rfl nofun nofun (.inl rfl)
  · exact hs.start hrest .decodeNames nofun rfl nofun nofun ⟨.inl rfl, hv⟩
  · exact hs.start hrest .send nofun rfl nofun nofun hv
  · exact hs.start_receive exp
  · exact hs.start hrest .sendReceive nofun rfl nofun nofun hv
  · exact hs.start hrest .opReset (fun _ => rfl) rfl nofun nofun nofun
  · exact hs.start hrest .opGetNames (fun _ => rfl) rfl nofun (fun _ => rfl) nofun
  · exact hs.start hrest .opSetNames (fun _ => rfl) rfl nofun nofun (.inr rfl)

/-- An expiry sets TMR_EXPIRED only while the timer is armed. -/
theorem State.Inv.expire {s : State} (hs : s.Inv) : s.expire.Inv := by
  unfold State.expire
  split
  · next harmed => exact { hs with expired := fun _ => harmed }
  · exact hs

/-- Settles O49: an engine turn and a presented operation keep the invariant, it does not speak of the stream, and a reset
starts it afresh. -/
theorem stepKeepsTheInvariant : Obligations.StepKeepsTheInvariant := by
  intro s t hs h
  have henv (rest : List Input) : ({ s with inputs := rest } : State).Inv := hs.env _ _ _ _ _
  rcases step_cases h with ⟨_, ht⟩ | ⟨_, rest, _, ht⟩ | ⟨_, rest, _, hp⟩ | ⟨_, _, _, rfl⟩ | ⟨rest, _, rfl⟩ | ⟨_, _, rfl⟩ |
    ⟨_, _, rfl⟩ | ⟨_, _, rfl⟩ | ⟨_, _, _, rfl⟩ | ⟨_, _, rfl⟩
  · exact ht.keepsInv hs
  · exact ht.keepsInv (henv rest)
  · exact hostIssues_keepsInv (henv rest) hp
  · exact hs.env _ _ _ _ _
  · exact (henv rest).expire
  · exact hs.env _ _ _ _ _
  · exact hs.env _ _ _ _ _
  · exact hs.env _ _ _ _ _
  · exact { resetMeetsTheInvariant with secondExchange := nofun }
  · exact { resetMeetsTheInvariant with secondExchange := nofun, pushed := nofun }

/-! ## No step stops -/

theorem State.RegistersInv.txlen_le {s : State} (h : s.RegistersInv) : s.txlen.toNat ≤ 1544 := by
  rcases h.txlen with h | h | h <;> rw [h] <;> decide

theorem State.bodyExpected.hdrLen_le {s : State} (h : s.bodyExpected) : s.hdrLen.toNat ≤ 1536 := by
  obtain ⟨-, hlen, -⟩ := h
  rw [hlen]
  cases s.argExp <;> decide

theorem phaseTxSend_goes_on {s : State} (hlen : s.txlen.toNat ≤ 1544) (c : StreamChoice) :
    ∃ t, phaseTxSend c s = .next t := by
  by_cases hlt : s.txcnt < s.txlen
  · obtain ⟨b, hb⟩ := s.getElem?_txbuf hlen hlt
    cases ho : s.pushOutcome c with
    | accepted => exact ⟨_, phaseTxSend_accepted hlt hb ho⟩
    | writeFail => exact ⟨_, phaseTxSend_writeFail hlt hb ho⟩
    | notYet => exact ⟨_, phaseTxSend_notYet hlt hb ho⟩
  · by_cases ho : s.op = .send
    · exact ⟨_, phaseTxSend_sent hlt ho⟩
    · exact ⟨_, phaseTxSend_listen hlt ho⟩

theorem phaseRxHdr_goes_on (s : State) (c : StreamChoice) : ∃ t, phaseRxHdr c s = .next t := by
  by_cases hlt : s.rxcnt.toNat < 8
  · cases ho : s.takeOutcome c with
    | timeout => exact ⟨_, phaseRxHdr_timeout hlt ho⟩
    | readFail => exact ⟨_, phaseRxHdr_readFail hlt ho⟩
    | byte b => exact ⟨_, phaseRxHdr_byte hlt ho⟩
    | wait => exact ⟨_, phaseRxHdr_wait hlt ho⟩
  · exact ⟨_, phaseRxHdr_parsed hlt⟩

theorem phaseRxValidate_goes_on (s : State) : ∃ t, phaseRxValidate s = .next t := by
  rcases phaseRxValidate_cases s with ⟨-, e⟩ | ⟨-, e⟩ | ⟨-, -, e⟩
  · by_cases hlen : s.hdrLen = s.argExp.size
    · exact ⟨_, e.trans (execAck_sized _ hlen)⟩
    · exact ⟨_, e.trans (execAck_mismatch _ hlen)⟩
  · exact ⟨_, e⟩
  · exact ⟨_, e⟩

theorem phaseRxBody_goes_on {s : State} (hlen : s.hdrLen.toNat ≤ 1536) (c : StreamChoice) :
    ∃ t, phaseRxBody c s = .next t := by
  by_cases hlt : s.rxcnt < s.hdrLen
  · cases ho : s.takeOutcome c with
    | timeout => exact ⟨_, phaseRxBody_timeout hlt ho⟩
    | readFail => exact ⟨_, phaseRxBody_readFail hlt ho⟩
    | byte b => exact ⟨_, phaseRxBody_byte hlt hlen ho⟩
    | wait => exact ⟨_, phaseRxBody_wait hlt ho⟩
  · exact ⟨_, phaseRxBody_full hlt⟩

theorem phaseRxVerify_goes_on {s : State} (hlen : s.hdrLen.toNat ≤ 1536) : ∃ t, phaseRxVerify s = .next t := by
  by_cases hok : (verify (bytesOf s.rxhdr) ((bytesOf s.rxbody).take s.hdrLen.toNat)).ok = true
  · exact ⟨_, phaseRxVerify_ok hlen hok⟩
  · exact ⟨_, phaseRxVerify_bad hlen hok⟩

theorem seqNext_goes_on {s : State} (hstep : s.seqStep ≠ .zero) (decoded : Bool) :
    ∃ t, seqNext decoded s = .next t := by
  cases h : s.seqStep with
  | zero => exact absurd h hstep
  | first =>
    by_cases hready : s.seqOp ≠ .getNames ∨ decoded = true
    · exact ⟨_, seqNext_first_ready h hready⟩
    · obtain ⟨hop, rfl⟩ : s.seqOp = .getNames ∧ decoded = false := by simpa using hready
      exact ⟨_, seqNext_first_undecoded h hop⟩
  | second => exact ⟨_, seqNext_second decoded h⟩

theorem phaseRxDecode_goes_on {s : State} (hs : s.RegistersInv) : ∃ t, phaseRxDecode s = .next t := by
  by_cases hq : s.seqOp = .none
  · exact ⟨_, endExchange_of_no_device_op (by rwa [s.copyBody_seqOp])⟩
  · rw [phaseRxDecode_of_device_op hq]
    exact seqNext_goes_on (by simpa using mt hs.seqStep.mp hq) _

theorem phaseNameEnc_goes_on {s : State} (hs : s.RegistersInv) (hop : s.op = .encodeNames ∨ s.op = .opSetNames) :
    ∃ t, phaseNameEnc s = .next t := by
  have hq := hs.seqOp
  rcases hop with hop | hop <;> rw [hop, OpSel.seqOp] at hq <;> simp [phaseNameEnc, hq]

theorem phaseNameDec_goes_on {s : State} (hs : s.RegistersInv)
    (hop : s.op = .decodeNames ∨ (s.op = .opGetNames ∧ s.seqStep = .first)) : ∃ t, phaseNameDec s = .next t := by
  have hq := hs.seqOp
  rcases hop with hop | ⟨hop, hstep⟩ <;> rw [hop, OpSel.seqOp] at hq
  · simp [phaseNameDec, hq]
  · rw [phaseNameDec_of_getNames hq]
    exact seqNext_goes_on (by simp [hstep]) _

theorem engineStep_goes_on {s : State} (hs : s.Inv) (c : StreamChoice) : ∃ t, engineStep c s = .next t := by
  have hphase := hs.phase
  cases hst : s.st with
  | idle | done | failed => exact ⟨_, engineStep_rest c (by rw [hst]; rfl)⟩
  | txBuild => exact ⟨_, engineStep_txBuild c hst⟩
  | txSend => rw [engineStep_txSend c hst]; exact phaseTxSend_goes_on hs.registers.txlen_le c
  | rxHdr => rw [engineStep_rxHdr c hst]; exact phaseRxHdr_goes_on s c
  | rxValidate => rw [engineStep_rxValidate c hst]; exact phaseRxValidate_goes_on s
  | rxBody =>
    rw [hst] at hphase
    rw [engineStep_rxBody c hst]; exact phaseRxBody_goes_on hphase.2.hdrLen_le c
  | rxVerify =>
    rw [hst] at hphase
    rw [engineStep_rxVerify c hst]; exact phaseRxVerify_goes_on hphase.2.hdrLen_le
  | rxDecode => rw [engineStep_rxDecode c hst]; exact phaseRxDecode_goes_on hs.registers
  | nameEnc =>
    rw [hst] at hphase
    rw [engineStep_nameEnc c hst]; exact phaseNameEnc_goes_on hs.registers hphase
  | nameDec =>
    rw [hst] at hphase
    rw [engineStep_nameDec c hst]; exact phaseNameDec_goes_on hs.registers hphase.1

/-- Settles O50: only the engine could stop, and it does not under the invariant. -/
theorem stepNeverStops : Obligations.StepNeverStops := by
  intro s hs
  cases hin : s.inputs with
  | nil => rw [step_nil hin]; exact engineStep_goes_on hs _
  | cons i rest =>
    rw [step_cons hin]
    cases i with
    | host p => exact (hostIssues_cases p _).imp fun _ => And.left
    | engine c => exact engineStep_goes_on (hs.env rest _ _ _ _) c
    | reset fresh => cases fresh <;> exact ⟨_, rfl⟩
    | peer | expire | close | stall | resume => exact ⟨_, rfl⟩

/-! ## A step that is no reset -/

/-- A step that is no reset is an engine turn, a presented operation, bytes of the peer, or an event that changes the
stream's condition or TMR_EXPIRED alone. -/
theorem step_cases_of_no_reset {s t : State} (h : step s = .next t)
    (hreset : ∀ fresh rest, s.inputs ≠ .reset fresh :: rest) :
    (∃ rest, Turn { s with inputs := rest } t) ∨
    (∃ p rest, s.inputs = .host p :: rest ∧ hostIssues p { s with inputs := rest } = .next t) ∨
    (∃ bs rest, s.inputs = .peer bs :: rest ∧ t = { s with inputs := rest, rxs := s.rxs ++ bs }) ∨
    (∃ rest closed stalled expired,
      t = { s with inputs := rest, closed := closed, txStalled := stalled, tmrExpired := expired }) := by
  rcases step_cases h with ⟨_, ht⟩ | ⟨_, rest, _, ht⟩ | hhost | hpeer | ⟨rest, _, rfl⟩ | ⟨_, _, rfl⟩ | ⟨_, _, rfl⟩ |
    ⟨_, _, rfl⟩ | ⟨_, _, hin, _⟩ | ⟨_, hin, _⟩
  · exact .inl ⟨s.inputs, ht⟩
  · exact .inl ⟨rest, ht⟩
  · exact .inr (.inl hhost)
  · exact .inr (.inr (.inl hpeer))
  · refine .inr (.inr (.inr ⟨rest, s.closed, s.txStalled, s.tmrExpired || s.tmrArmed, ?_⟩))
    unfold State.expire
    split <;> simp_all
  · exact .inr (.inr (.inr ⟨_, _, _, _, rfl⟩))
  · exact .inr (.inr (.inr ⟨_, _, _, _, rfl⟩))
  · exact .inr (.inr (.inr ⟨_, _, _, _, rfl⟩))
  · exact absurd hin (hreset _ _)
  · exact absurd hin (hreset _ _)

/-! ## What reaches RNT -/

/-- An engine turn writes RNT in NAME_ENC, and in RX_DECODE when a table was expected. -/
theorem Turn.rnt_cases {s t : State} (h : Turn s t) :
    t.rnt = s.rnt ∨
    (s.st = .nameEnc ∧ t.rnt = encodeTable s.lnt ∧ t.rntValid = true) ∨
    (s.st = .rxDecode ∧ s.argExp = .rnt ∧ t.rnt = s.rxbody ∧ t.rntValid = true) := by
  cases h with
  | stay | build | push | sent | takeHeader | parsed | accepted | takeBody | bodyThere | verified | decoded
  | decodedToDisconnect | decodedAtEnd => exact .inl rfl
  | writeFail | listen | failed => exact .inl (by simp)
  | encoded h | encodedToSend h => exact .inr (.inl ⟨h, rfl, rfl⟩)
  | received h | toDecode h | toDisconnect h | sequenced h =>
    by_cases hexp : s.argExp = .rnt
    · exact .inr (.inr ⟨h, hexp, by simp [hexp], by simp [hexp]⟩)
    · exact .inl (by simp [hexp])

/-- A presented operation does not write RNT. -/
theorem hostIssues_rnt {p : Port} {s t : State} (h : hostIssues p s = .next t) : t.rnt = s.rnt := by
  obtain ⟨u, hu, hcases⟩ := hostIssues_cases p s
  obtain rfl : u = t := by simpa [hu] using h
  rcases hcases with
    rfl | ⟨-, ⟨_, rfl⟩ | ⟨_, rfl⟩ | ⟨_, _, _, rfl⟩ | ⟨_, rfl⟩ | ⟨_, _, _, _, rfl⟩ | rfl | rfl | ⟨_, rfl⟩⟩ <;>
    simp

/-- A body received where a table was expected is a whole RXBODY that the checksum covers. -/
theorem State.Inv.table_verified {s : State} (hs : s.Inv) (hst : s.st = .rxDecode) (hexp : s.argExp = .rnt) :
    s.hdrCmd = 0x0006#16 ∧ s.hdrLen = 1536#16 ∧ (verify (bytesOf s.rxhdr) (bytesOf s.rxbody)).ok = true := by
  obtain ⟨hcmd, hlen, -⟩ := hs.sized (hst ▸ rfl)
  have hok := hs.verified hst
  rw [hexp] at hlen
  rw [hlen, List.take_of_length_le (by simp [Shape.size])] at hok
  exact ⟨hcmd, hlen, hok⟩

/-- Settles O53: of all inputs only an engine turn writes RNT, and the invariant says what RX_DECODE finds in RXBODY. -/
theorem rntHoldsOnlyVerifiedBodies : Obligations.RntHoldsOnlyVerifiedBodies := by
  intro s t hs h hreset
  rcases step_cases_of_no_reset h hreset with ⟨_, ht⟩ | ⟨_, _, _, hp⟩ | ⟨_, _, _, rfl⟩ | ⟨_, _, _, _, rfl⟩
  · refine ht.rnt_cases.imp_right (Or.imp_right ?_)
    rintro ⟨hst, hexp, hrnt, hvalid⟩
    exact ⟨hst, hexp, hrnt, hvalid, hs.table_verified hst hexp⟩
  · have hkept := hostIssues_rnt hp
    exact .inl hkept
  · exact .inl rfl
  · exact .inl rfl

end Sys2Proof.Machine
end

section
/-! PROOFS of the statements about one step of the whole machine: the sticky flags, the two streams, and the operand
latches. -/

namespace Sys2Proof.Machine

/-! ## Sticky flags (10_state.md R31, R33, R34, R43) -/

/-- `t` has CFG_DISCONNECT of `s` and every sticky flag that `s` has. -/
structure Sticks (s t : State) : Prop where
  config : t.cfgDisconnect = s.cfgDisconnect
  unreliable : s.connUnreliable = true → t.connUnreliable = true
  refused : s.opRefused = true → t.opRefused = true
  written : s.rntValid = true → t.rntValid = true

theorem Turn.sticks {s t : State} (h : Turn s t) : Sticks s t := by
  cases h with
  | stay | build | push | sent | takeHeader | parsed | accepted | takeBody | bodyThere | verified | decoded
  | decodedToDisconnect | decodedAtEnd => exact ⟨rfl, id, id, id⟩
  | encoded | encodedToSend => exact ⟨rfl, id, id, fun _ => rfl⟩
  | writeFail | failed | listen | received | toDecode | toDisconnect | sequenced =>
    constructor <;> simp +contextual

theorem hostIssues_sticks {p : Port} {s t : State} (h : hostIssues p s = .next t) : Sticks s t := by
  obtain ⟨u, hu, hcases⟩ := hostIssues_cases p s
  obtain rfl : u = t := by simpa [hu] using h
  rcases hcases with rfl | ⟨-, ⟨_, rfl⟩ | ⟨_, rfl⟩ | ⟨_, _, _, rfl⟩ | ⟨_, rfl⟩ | ⟨_, _, _, _, rfl⟩ | rfl | rfl | ⟨_, rfl⟩⟩
  · exact ⟨rfl, id, fun _ => rfl, id⟩
  all_goals constructor <;> simp

/-- A reset keeps CFG_DISCONNECT, though it clears the flags. -/
theorem step_reset_cfgDisconnect {s t : State} {fresh : Option (List Byte)} {rest : List Input} (h : step s = .next t)
    (hin : s.inputs = .reset fresh :: rest) : t.cfgDisconnect = s.cfgDisconnect := by
  rw [step_cons hin] at h
  cases fresh <;> cases h <;> rfl

theorem step_sticks {s t : State} (h : step s = .next t) (hreset : ∀ fresh rest, s.inputs ≠ .reset fresh :: rest) :
    Sticks s t := by
  rcases step_cases_of_no_reset h hreset with ⟨_, ht⟩ | ⟨_, _, _, hp⟩ | ⟨_, _, _, rfl⟩ | ⟨_, _, _, _, rfl⟩
  · exact { ht.sticks with }
  · exact { hostIssues_sticks hp with }
  · exact ⟨rfl, id, id, id⟩
  · exact ⟨rfl, id, id, id⟩

/-- Settles O51: no step but a reset clears a sticky flag, and not even a reset changes CFG_DISCONNECT. -/
theorem stickyFlagsSurvive : Obligations.StickyFlagsSurvive := by
  intro s t h
  refine ⟨?_, fun hreset => ?_⟩
  · by_cases hreset : ∃ fresh rest, s.inputs = .reset fresh :: rest
    · obtain ⟨fresh, rest, hin⟩ := hreset
      exact step_reset_cfgDisconnect h hin
    · push Not at hreset
      exact (step_sticks h hreset).config
  · obtain ⟨-, hunreliable, hrefused, hwritten⟩ := step_sticks h hreset
    exact ⟨hunreliable, hrefused, hwritten⟩

/-! ## The streams (20_memory.md R72; 70_reset_and_hazards.md R316) -/

/-- One byte pushed in TX_SEND, and none taken. -/
def PushesByte (s t : State) : Prop :=
  s.st = .txSend ∧ t.rxs = s.rxs ∧ ∃ b, (bytesOf s.txbuf)[s.txcnt.toNat]? = some b ∧ t.txs = s.txs ++ [b]

/-- A receive part begins on a stream about which nothing is promised. -/
def ListensUnreliably (s t : State) : Prop :=
  s.connUnreliable = true ∧ t.st = .rxHdr ∧ t.tmrArmed = true ∧ s.st ≠ .rxHdr

/-- One byte taken in RX_HDR or RX_BODY before the deadline, and none pushed. -/
def TakesByte (s t : State) : Prop :=
  (s.st = .rxHdr ∨ s.st = .rxBody) ∧ s.tmrExpired = false ∧ t.txs = s.txs ∧ t.rxs = s.rxs.tail

theorem Turn.streams {s t : State} (h : Turn s t) :
    (t.txs = s.txs ∨ PushesByte s t) ∧ (t.rxs = s.rxs ∨ ListensUnreliably s t ∨ TakesByte s t) := by
  cases h with
  | stay | build | sent | parsed | accepted | bodyThere | verified | encoded | encodedToSend | decoded
  | decodedToDisconnect | decodedAtEnd => exact ⟨.inl rfl, .inl rfl⟩
  | writeFail | failed | received | toDecode | toDisconnect | sequenced => exact ⟨.inl (by simp), .inl (by simp)⟩
  | push h _ b hb => exact ⟨.inr ⟨h, rfl, b, hb, rfl⟩, .inl rfl⟩
  | takeHeader h _ _ he => exact ⟨.inl rfl, .inr (.inr ⟨.inl h, he, rfl, rfl⟩)⟩
  | takeBody h _ _ _ he => exact ⟨.inl rfl, .inr (.inr ⟨.inr h, he, rfl, rfl⟩)⟩
  | listen h =>
    refine ⟨.inl (by simp), ?_⟩
    by_cases hc : s.connUnreliable = true
    · exact .inr (.inl ⟨hc, by simp, by simp, by simp [h]⟩)
    · exact .inl (by simp [hc])

theorem hostIssues_streams {p : Port} {s t : State} (h : hostIssues p s = .next t) :
    t.txs = s.txs ∧ (t.rxs = s.rxs ∨ ListensUnreliably s t) := by
  obtain ⟨u, hu, hcases⟩ := hostIssues_cases p s
  obtain rfl : u = t := by simpa [hu] using h
  rcases hcases with rfl |
    ⟨hrest, ⟨_, rfl⟩ | ⟨_, rfl⟩ | ⟨_, _, _, rfl⟩ | ⟨_, rfl⟩ | ⟨_, _, _, _, rfl⟩ | rfl | rfl | ⟨_, rfl⟩⟩
  case inr.inr.inr.inr.inl =>
    refine ⟨by simp, ?_⟩
    by_cases hc : s.connUnreliable = true
    · refine .inr ⟨hc, by simp, by simp, fun hst => ?_⟩
      rw [hst] at hrest
      cases hrest
    · exact .inl (by simp [hc])
  all_goals exact ⟨rfl, .inl rfl⟩

/-- Settles O52: a turn moves at most one byte, the host's operations and the other events none. -/
theorem streamsMoveOneByteInTheirPhases : Obligations.StreamsMoveOneByteInTheirPhases := by
  intro s t h hreset
  rcases step_cases_of_no_reset h hreset with ⟨_, ht⟩ | ⟨_, _, _, hp⟩ | ⟨bs, rest, hin, rfl⟩ | ⟨_, _, _, _, rfl⟩
  · obtain ⟨htx, hrx⟩ := ht.streams
    exact ⟨htx, hrx.imp_right .inr⟩
  · obtain ⟨htx, hrx⟩ := hostIssues_streams hp
    exact ⟨.inl htx, hrx.imp_right (.inr ∘ .inl)⟩
  · exact ⟨.inl rfl, .inr (.inl ⟨bs, rest, hin, rfl⟩)⟩
  · exact ⟨.inl rfl, .inl rfl⟩

/-! ## The operand latches (10_state.md R22, 43_device_operations.md R241) -/

/-- OP and SEQ_OP stay, and the latches stay or become those of the DISCONNECT exchange. -/
def HoldsLatches (s t : State) : Prop :=
  t.op = s.op ∧ t.seqOp = s.seqOp ∧
    ((t.argCmd = s.argCmd ∧ t.argBody = s.argBody ∧ t.argExp = s.argExp) ∨
      ((s.st = .rxDecode ∨ s.st = .nameDec) ∧ s.seqOp ≠ .none ∧ s.seqStep = .first ∧
        t.seqStep = .second ∧ t.argCmd = s.cfgDisconnect.code ∧ t.argBody = .none ∧ t.argExp = .none))

theorem Turn.holdsLatches {s t : State} (h : Turn s t) : HoldsLatches s t := by
  cases h with
  | stay | build | push | sent | takeHeader | parsed | accepted | takeBody | bodyThere | verified | encoded
  | encodedToSend | decoded | decodedAtEnd => exact ⟨rfl, rfl, .inl ⟨rfl, rfl, rfl⟩⟩
  | writeFail | failed | listen | received | toDecode | sequenced =>
    exact ⟨by simp, by simp, .inl ⟨by simp, by simp, by simp⟩⟩
  | toDisconnect h hstep hq => exact ⟨by simp, by simp, .inr ⟨.inl h, hq, hstep, rfl, rfl, rfl, rfl⟩⟩
  | decodedToDisconnect h hstep hq =>
    exact ⟨rfl, rfl, .inr ⟨.inr h, by simp [hq], hstep, rfl, rfl, rfl, rfl⟩⟩

/-- Settles O54: while the block is busy an operation is refused, so only an engine turn could change a latch. -/
theorem latchesHoldWhileBusy : Obligations.LatchesHoldWhileBusy := by
  intro s t h hreset hbusy
  rcases step_cases_of_no_reset h hreset with ⟨_, ht⟩ | ⟨_, rest, _, hp⟩ | ⟨_, _, _, rfl⟩ | ⟨_, _, _, _, rfl⟩
  · exact ht.holdsLatches
  · rw [hostIssues_refused (s := { s with inputs := rest }) (.inl hbusy)] at hp
    cases hp
    exact ⟨rfl, rfl, .inl ⟨rfl, rfl, rfl⟩⟩
  · exact ⟨rfl, rfl, .inl ⟨rfl, rfl, rfl⟩⟩
  · exact ⟨rfl, rfl, .inl ⟨rfl, rfl, rfl⟩⟩

end Sys2Proof.Machine
end

section
/-! PROOFS of the statements about whole operations on an undisturbed stream: a request pushed, an answer taken, and the
exchanges of the device operations one after the other. -/

namespace Sys2Proof.Machine

/-! ## Runs of several parts -/

theorem run_one {s t : State} (h : step s = .next t) : Host.Core.run core 1 s = .next t :=
  run_succ h

theorem run_trans {m n k : Nat} {s t u : State} (h₁ : Host.Core.run core m s = .next t)
    (h₂ : Host.Core.run core n t = .next u) (hk : k = m + n) : Host.Core.run core k s = .next u := by
  rw [hk, run_add h₁, h₂]

/-- States that follow each other step by step are a run. -/
theorem run_family {f : Nat → State} {n : Nat} (h : ∀ i, i < n → step (f i) = .next (f (i + 1))) :
    Host.Core.run core n (f 0) = .next (f n) := by
  induction n with
  | zero => rfl
  | succ n ih => exact run_trans (ih fun i hi => h i (by omega)) (run_one (h n (by omega))) rfl

/-- With no input left a step is the engine's. -/
theorem step_of_turn {s t : State} (hin : s.inputs = []) (h : engineStep .ready s = .next t) : step s = .next t :=
  (step_nil hin).trans h

/-! ## A request pushed (42_command_response_engine.md R196) -/

/-- The frame of the request in the operand latches. -/
abbrev State.request (s : State) : List Byte :=
  construct s.argCmd s.requestBody

theorem State.length_request_le (s : State) : s.request.length ≤ 1544 :=
  s.length_requestFrame_le

/-- TX_SEND with the request's frame built and `n` of its bytes pushed. -/
def State.requested (s : State) (n : Nat) : State :=
  { s with
    txbuf := (s.putFrame s.request).txbuf
    freeCtr := s.freeCtr + 1
    txlen := BitVec.ofNat 11 s.request.length
    txcnt := BitVec.ofNat 11 n
    sum := sum8 (s.request.take 4 ++ s.request.drop 8)
    txs := s.txs ++ s.request.take n
    st := .txSend }

theorem State.toNat_requested_txlen (s : State) (n : Nat) : (s.requested n).txlen.toNat = s.request.length :=
  s.toNat_txlen_build

theorem State.toNat_requested_txcnt (s : State) {n : Nat} (hn : n ≤ s.request.length) :
    (s.requested n).txcnt.toNat = n := by
  have hfits := s.length_request_le
  exact (BitVec.toNat_ofNat n 11).trans (Nat.mod_eq_of_lt (by omega))

theorem State.requested_txcnt_lt_iff (s : State) {n : Nat} (hn : n ≤ s.request.length) :
    (s.requested n).txcnt < (s.requested n).txlen ↔ n < s.request.length := by
  rw [BitVec.lt_def, s.toNat_requested_txlen, s.toNat_requested_txcnt hn]

theorem State.getElem?_requested_txbuf (s : State) {n : Nat} (hn : n < s.request.length) :
    (bytesOf (s.requested n).txbuf)[(s.requested n).txcnt.toNat]? = some s.request[n] := by
  have hframe : (bytesOf (s.requested n).txbuf).take s.request.length = s.request :=
    s.take_txbuf_putFrame s.length_request_le
  rw [s.toNat_requested_txcnt hn.le, ← List.getElem?_take_of_lt hn, hframe, List.getElem?_eq_getElem hn]

theorem step_txBuild {s : State} (hin : s.inputs = []) (hst : s.st = .txBuild) : step s = .next (s.requested 0) := by
  have hbuilt : s.requested 0 = { s.requested 0 with txs := s.txs } := by simp [State.requested]
  rw [hbuilt]
  exact step_of_turn hin (engineStep_txBuild _ hst)

theorem step_requested {s : State} (hs : s.undisturbed) {n : Nat} (hn : n < s.request.length) :
    step (s.requested n) = .next (s.requested (n + 1)) := by
  obtain ⟨hin, hopen, -, -⟩ := id hs
  have hpush := phaseTxSend_accepted ((s.requested_txcnt_lt_iff hn.le).mpr hn) (s.getElem?_requested_txbuf hn)
    (State.pushOutcome_ready (s := s.requested n) hopen (State.undisturbed_txStalled hs))
  have hnext : s.requested (n + 1) =
      { (s.requested n).pushByte s.request[n] with txcnt := (s.requested n).txcnt + 1 } := by
    simp only [State.requested, State.pushByte, BitVec.ofNat_add, List.take_add_one, List.getElem?_eq_getElem hn,
      Option.toList_some, List.append_assoc]
    rfl
  rw [hnext]
  exact step_of_turn hin ((engineStep_txSend _ rfl).trans hpush)

/-- From TX_BUILD the whole frame is pushed. -/
theorem run_requested {s : State} (hs : s.undisturbed) (hst : s.st = .txBuild) :
    Host.Core.run core (s.request.length + 1) s = .next (s.requested s.request.length) :=
  run_trans (run_one (step_txBuild hs.1 hst)) (run_family (f := s.requested) fun _ => step_requested hs)
    (Nat.add_comm _ _)

/-! ## A header taken (R201, R202) -/

theorem bufOf_bytesOf {n : Nat} (b : Buf n) : bufOf n (bytesOf b) = b :=
  buf_ext (bytesOf_bufOf_of_length (length_bytesOf b))

/-- A buffer filled from its start with `i` bytes of a sequence takes the next one. -/
theorem setIfInBounds_bufOf_take {n i : Nat} (b : Buf n) (bs : List Byte) (hi : i < n) (hbs : i < bs.length) :
    (bufOf n (bs.take i ++ (bytesOf b).drop i)).setIfInBounds i bs[i] =
      bufOf n (bs.take (i + 1) ++ (bytesOf b).drop (i + 1)) := by
  have hlen (j : Nat) (hj : j ≤ n) (hjb : j ≤ bs.length) : (bs.take j ++ (bytesOf b).drop j).length = n := by
    simp; omega
  apply buf_ext
  rw [bytesOf_setIfInBounds, bytesOf_bufOf_of_length (hlen i (by omega) (by omega)),
    bytesOf_bufOf_of_length (hlen (i + 1) (by omega) (by omega)),
    List.drop_eq_getElem_cons (by rw [length_bytesOf]; exact hi), List.set_append_right _ _ (by simp),
    List.length_take_of_le hbs.le, Nat.sub_self, List.set_cons_zero, ← List.take_append_getElem hbs, List.append_assoc]
  rfl

/-- RX_HDR with `n` header bytes taken from RXS. -/
def State.listening (s : State) (n : Nat) : State :=
  { s with
    tmrArmed := true
    tmrExpired := false
    rxcnt := BitVec.ofNat 16 n
    rxhdr := bufOf Config.hdrSize (s.rxs.take n ++ (bytesOf s.rxhdr).drop n)
    rxs := s.rxs.drop n
    st := .rxHdr }

theorem State.beginReceive_of_reliable {s : State} (h : s.connUnreliable = false) : s.beginReceive = s.listening 0 := by
  have hbuf : bufOf 8 ([] ++ bytesOf s.rxhdr) = s.rxhdr := bufOf_bytesOf s.rxhdr
  have hkeep : s.unreliableStream = s := if_neg (by simp [h])
  simp only [State.beginReceive, hkeep, State.listening, List.take_zero, List.drop_zero, hbuf]
  rfl

theorem step_listening {s : State} (hin : s.inputs = []) (hopen : s.closed = false) {n : Nat} (hn : n < 8)
    (hrxs : n < s.rxs.length) : step (s.listening n) = .next (s.listening (n + 1)) := by
  have hcnt : (s.listening n).rxcnt.toNat = n := (BitVec.toNat_ofNat n 16).trans (Nat.mod_eq_of_lt (by omega))
  have hbyte : (s.listening n).takeOutcome .ready = .byte s.rxs[n] :=
    State.takeOutcome_cons rfl hopen nofun (List.drop_eq_getElem_cons hrxs)
  have hnext : s.listening (n + 1) = { (s.listening n).dropHead with
      rxhdr := (s.listening n).rxhdr.setIfInBounds (s.listening n).rxcnt.toNat s.rxs[n]
      rxcnt := (s.listening n).rxcnt + 1 } := by
    rw [hcnt]
    simp only [State.listening, State.dropHead, BitVec.ofNat_add, List.tail_drop,
      setIfInBounds_bufOf_take s.rxhdr s.rxs hn hrxs]
    rfl
  rw [hnext]
  exact step_of_turn hin ((engineStep_rxHdr _ rfl).trans (phaseRxHdr_byte (by rw [hcnt]; exact hn) hbyte))

/-- RX_VALIDATE with the request pushed, a header taken and parsed, and `later` left in RXS. -/
def State.headed (s : State) (c l : U16) (k : U32) (later : List Byte) : State :=
  { s with
    txbuf := (s.putFrame s.request).txbuf
    freeCtr := s.freeCtr + 1
    txlen := BitVec.ofNat 11 s.request.length
    txcnt := BitVec.ofNat 11 s.request.length
    sum := sum8 (s.request.take 4 ++ s.request.drop 8)
    txs := s.txs ++ s.request
    tmrArmed := true
    tmrExpired := false
    rxcnt := 8
    rxhdr := bufOf Config.hdrSize (headerBytes c l k)
    rxs := later
    hdrCmd := c
    hdrLen := l
    hdrCsum := k
    st := .rxValidate }

theorem step_listening_full {s : State} {c l : U16} {k : U32} {later : List Byte} (hin : s.inputs = [])
    (hrxs : s.rxs = headerBytes c l k ++ later) :
    step ((s.requested s.request.length).listening 8) = .next (s.headed c l k later) := by
  have hheader : s.rxs.take 8 ++ (bytesOf s.rxhdr).drop 8 = headerBytes c l k := by
    rw [hrxs, List.take_left' (length_headerBytes c l k), List.drop_of_length_le (by simp), List.append_nil]
  have hleft : s.rxs.drop 8 = later := by rw [hrxs, List.drop_left' (length_headerBytes c l k)]
  have hparse : parseHeader (bytesOf (bufOf 8 (headerBytes c l k))) = ⟨c, l, k⟩ := parseHeader_headerBytes c l k []
  refine step_of_turn hin ((engineStep_rxHdr _ rfl).trans ((phaseRxHdr_parsed (lt_irrefl 8)).trans ?_))
  simp only [State.headed, State.listening, State.requested, List.take_length, hheader, hleft, hparse]
  rfl

theorem step_listen {s : State} (hs : s.undisturbed) (hop : s.op ≠ .send) :
    step (s.requested s.request.length) = .next ((s.requested s.request.length).listening 0) := by
  obtain ⟨hin, -, hreliable, -⟩ := hs
  have hout : ¬ (s.requested s.request.length).txcnt < (s.requested s.request.length).txlen :=
    mt (s.requested_txcnt_lt_iff le_rfl).mp (lt_irrefl _)
  rw [← State.beginReceive_of_reliable (s := s.requested s.request.length) hreliable]
  exact step_of_turn hin ((engineStep_txSend _ rfl).trans (phaseTxSend_listen hout hop))

theorem run_listening {s : State} (hin : s.inputs = []) (hopen : s.closed = false) (hrxs : 8 ≤ s.rxs.length) :
    Host.Core.run core 8 (s.listening 0) = .next (s.listening 8) :=
  run_family fun _ hn => step_listening hin hopen hn (hn.trans_le hrxs)

/-- From TX_BUILD the request is pushed and the header of the answer taken. -/
theorem run_headed {s : State} {c l : U16} {k : U32} {later : List Byte}
    (hs : s.undisturbed) (hst : s.st = .txBuild)
    (hop : s.op ≠ .send) (hrxs : s.rxs = headerBytes c l k ++ later) :
    Host.Core.run core (s.request.length + 11) s = .next (s.headed c l k later) := by
  have hlong : 8 ≤ s.rxs.length := by
    rw [hrxs, List.length_append, length_headerBytes]
    omega
  have hread := run_trans (run_listening (s := s.requested s.request.length) hs.1 hs.2.1 hlong)
    (run_one (step_listening_full hs.1 hrxs)) rfl
  exact run_trans (run_requested hs hst) (run_trans (run_one (step_listen hs hop)) hread rfl) (by omega)

/-! ## An ACK taken (R204, R207 to R213) -/

/-- RX_BODY with `n` body bytes taken from RXS. -/
def State.reading (s : State) (n : Nat) : State :=
  { s with
    rxcnt := BitVec.ofNat 16 n
    rxbody := bufOf Config.bodyMax (s.rxs.take n ++ (bytesOf s.rxbody).drop n)
    rxs := s.rxs.drop n
    st := .rxBody }

theorem State.reading_zero (s : State) : s.reading 0 = { s with rxcnt := 0, st := .rxBody } := by
  have hbuf : bufOf 1536 ([] ++ bytesOf s.rxbody) = s.rxbody := bufOf_bytesOf s.rxbody
  simp only [State.reading, List.take_zero, List.drop_zero, hbuf]
  rfl

theorem State.toNat_reading_rxcnt (s : State) {n : Nat} (hn : n ≤ 1536) : (s.reading n).rxcnt.toNat = n :=
  (BitVec.toNat_ofNat n 16).trans (Nat.mod_eq_of_lt (by omega))

theorem step_reading {s : State} (hin : s.inputs = []) (hopen : s.closed = false) (hlive : s.tmrExpired = false)
    (hlen : s.hdrLen.toNat ≤ 1536) {n : Nat} (hn : n < s.hdrLen.toNat) (hrxs : n < s.rxs.length) :
    step (s.reading n) = .next (s.reading (n + 1)) := by
  have hcnt := s.toNat_reading_rxcnt (n := n) (by omega)
  have hlt : (s.reading n).rxcnt < (s.reading n).hdrLen := BitVec.lt_def.mpr (by rw [hcnt]; exact hn)
  have hbyte : (s.reading n).takeOutcome .ready = .byte s.rxs[n] :=
    State.takeOutcome_cons hlive hopen nofun (List.drop_eq_getElem_cons hrxs)
  have hnext : s.reading (n + 1) = { (s.reading n).dropHead with
      rxbody := (s.reading n).rxbody.setIfInBounds (s.reading n).rxcnt.toNat s.rxs[n]
      rxcnt := (s.reading n).rxcnt + 1 } := by
    rw [hcnt]
    simp only [State.reading, State.dropHead, BitVec.ofNat_add, List.tail_drop,
      setIfInBounds_bufOf_take s.rxbody s.rxs (hn.trans_le hlen) hrxs]
    rfl
  rw [hnext]
  exact step_of_turn hin ((engineStep_rxBody _ rfl).trans (phaseRxBody_byte hlt hlen hbyte))

/-- The checksum of a frame with this command and body. -/
def frameChecksum (cmd : U16) (body : List Byte) : U32 :=
  neg32 (sum8 (bytes16 cmd ++ bytes16 (BitVec.ofNat 16 body.length) ++ body))

/-- The header of a frame with this command and body. -/
abbrev frameHeader (cmd : U16) (body : List Byte) : List Byte :=
  headerBytes cmd (BitVec.ofNat 16 body.length) (frameChecksum cmd body)

/-- RX_VALIDATE with the header of an ACK that brings `answer` taken. -/
abbrev State.acked (s : State) (answer later : List Byte) : State :=
  s.headed Config.opAck (BitVec.ofNat 16 answer.length) (frameChecksum Config.opAck answer) (answer ++ later)

/-- RX_DECODE with the request pushed, an ACK that brings `answer` taken and verified, and `later` left in RXS. -/
def State.answered (s : State) (answer later : List Byte) : State :=
  { s with
    txbuf := (s.putFrame s.request).txbuf
    freeCtr := s.freeCtr + 1
    txlen := BitVec.ofNat 11 s.request.length
    txcnt := BitVec.ofNat 11 s.request.length
    txs := s.txs ++ s.request
    tmrArmed := true
    tmrExpired := false
    rxcnt := BitVec.ofNat 16 answer.length
    rxhdr := bufOf Config.hdrSize (frameHeader Config.opAck answer)
    rxbody := bufOf Config.bodyMax (answer ++ (bytesOf s.rxbody).drop answer.length)
    rxs := later
    hdrCmd := Config.opAck
    hdrLen := BitVec.ofNat 16 answer.length
    hdrCsum := frameChecksum Config.opAck answer
    sum := sum8 ((frameHeader Config.opAck answer).take 4 ++ answer)
    st := .rxDecode }

section
variable {s : State} {answer later : List Byte}

theorem step_acked (hin : s.inputs = []) (hlen : BitVec.ofNat 16 answer.length = s.argExp.size) :
    step (s.acked answer later) = .next ((s.acked answer later).reading 0) := by
  rw [State.reading_zero]
  exact step_of_turn hin ((engineStep_rxValidate _ rfl).trans ((phaseRxValidate_ack rfl).trans (execAck_sized _ hlen)))

theorem run_reading (hin : s.inputs = []) (hopen : s.closed = false) (hlen : answer.length ≤ 1536) :
    Host.Core.run core answer.length ((s.acked answer later).reading 0) =
      .next ((s.acked answer later).reading answer.length) := by
  have hdeclared : (s.acked answer later).hdrLen.toNat = answer.length :=
    (BitVec.toNat_ofNat _ 16).trans (Nat.mod_eq_of_lt (by omega))
  have hthere : answer.length ≤ (s.acked answer later).rxs.length := by
    show answer.length ≤ (answer ++ later).length
    simp
  exact run_family (f := (s.acked answer later).reading) fun n hn =>
    step_reading (s := s.acked answer later) hin hopen rfl
      (hdeclared.trans_le hlen) (hdeclared ▸ hn) (hn.trans_le hthere)

/-- RX_BODY with the whole body taken holds what RX_DECODE will find, but for SUM. -/
theorem State.reading_acked_full :
    (s.acked answer later).reading answer.length =
      { s.answered answer later with sum := (s.acked answer later).sum, st := .rxBody } := by
  have htake : (answer ++ later).take answer.length = answer := List.take_left
  have hdrop : (answer ++ later).drop answer.length = later := List.drop_left
  have hrxs : (s.acked answer later).rxs = answer ++ later := rfl
  rw [State.reading, hrxs, htake, hdrop]
  rfl

/-- The body bytes in RXBODY. -/
theorem State.take_rxbody_answered (hlen : answer.length ≤ 1536) :
    (bytesOf (s.answered answer later).rxbody).take answer.length = answer := by
  show (bytesOf (bufOf 1536 (answer ++ (bytesOf s.rxbody).drop answer.length))).take _ = answer
  rw [bytesOf_bufOf_of_length (by simp; omega), List.take_left]

/-- The verdict on a right ACK, of whose body RXBODY holds the bytes. -/
theorem State.verify_answered (hlen : answer.length ≤ 1536) :
    verify (bytesOf (s.answered answer later).rxhdr)
        ((bytesOf (s.answered answer later).rxbody).take (s.answered answer later).hdrLen.toNat) =
      verify (frameHeader Config.opAck answer) answer := by
  have hdeclared : (s.answered answer later).hdrLen.toNat = answer.length :=
    (BitVec.toNat_ofNat _ 16).trans (Nat.mod_eq_of_lt (by omega))
  have hheader : bytesOf (s.answered answer later).rxhdr = frameHeader Config.opAck answer :=
    bytesOf_bufOf_of_length (length_headerBytes _ _ _)
  rw [hdeclared, hheader, State.take_rxbody_answered hlen]

/-- The whole body taken, it is verified. -/
theorem run_verified (hin : s.inputs = []) (hlen : answer.length ≤ 1536) :
    Host.Core.run core 2 { s.answered answer later with sum := (s.acked answer later).sum, st := .rxBody } =
      .next (s.answered answer later) := by
  have hdeclared : (s.answered answer later).hdrLen.toNat = answer.length :=
    (BitVec.toNat_ofNat _ 16).trans (Nat.mod_eq_of_lt (by omega))
  have hverdict := State.verify_answered (s := s) (later := later) hlen
  have hok : (verify (frameHeader Config.opAck answer) answer).ok = true := verify_headerBytes_ok.mpr rfl
  have hthere : step { s.answered answer later with sum := (s.acked answer later).sum, st := .rxBody } =
      .next { s.answered answer later with sum := (s.acked answer later).sum, st := .rxVerify } :=
    step_of_turn hin ((engineStep_rxBody _ rfl).trans (phaseRxBody_full (BitVec.lt_irrefl _)))
  have hright : step { s.answered answer later with sum := (s.acked answer later).sum, st := .rxVerify } =
      .next (s.answered answer later) := by
    refine step_of_turn hin ((engineStep_rxVerify _ rfl).trans ((phaseRxVerify_ok ?_ ?_).trans ?_))
    · exact hdeclared.trans_le hlen
    · exact (congrArg Verdict.ok hverdict).trans hok
    · dsimp only
      rw [hverdict]
      rfl
  exact run_trans (run_one hthere) (run_one hright) rfl

/-- From TX_BUILD the request is pushed and a right ACK taken and verified. -/
theorem run_answered (hs : s.undisturbed) (hst : s.st = .txBuild) (hop : s.op ≠ .send)
    (hlen : answer.length = s.argExp.size.toNat) (hrxs : s.rxs = construct Config.opAck answer ++ later) :
    Host.Core.run core (s.request.length + answer.length + 14) s = .next (s.answered answer later) := by
  have hin := hs.1
  have hopen := hs.2.1
  have hfits : answer.length ≤ 1536 := by
    rw [hlen]
    cases s.argExp <;> decide
  have hsize : BitVec.ofNat 16 answer.length = s.argExp.size := by rw [hlen, BitVec.ofNat_toNat, BitVec.setWidth_eq]
  rw [construct_eq, List.append_assoc] at hrxs
  have hbody := run_reading (s := s) (later := later) hin hopen hfits
  rw [State.reading_acked_full] at hbody
  have hack := run_trans (run_one (step_acked (later := later) hin hsize))
    (run_trans hbody (run_verified hin hfits) rfl) rfl
  exact run_trans (run_headed hs hst hop hrxs) hack (by omega)

end

/-! ## The fields of the state in RX_DECODE -/

section
variable (s : State) (answer later : List Byte)

@[simp] theorem State.answered_op : (s.answered answer later).op = s.op := rfl
@[simp] theorem State.answered_seqOp : (s.answered answer later).seqOp = s.seqOp := rfl
@[simp] theorem State.answered_errKind : (s.answered answer later).errKind = s.errKind := rfl
@[simp] theorem State.answered_lnt : (s.answered answer later).lnt = s.lnt := rfl
@[simp] theorem State.answered_rxs : (s.answered answer later).rxs = later := rfl
@[simp] theorem State.answered_hdrCmd : (s.answered answer later).hdrCmd = Config.opAck := rfl
@[simp] theorem State.answered_hdrLen : (s.answered answer later).hdrLen = BitVec.ofNat 16 answer.length := rfl
@[simp] theorem State.answered_sum :
    (s.answered answer later).sum = sum8 ((frameHeader Config.opAck answer).take 4 ++ answer) := rfl

@[simp] theorem State.answered_txs : (s.answered answer later).txs = s.txs ++ s.request := rfl

end

/-! ## Presenting an operation -/

theorem decodePort_of_encode {i : Instr} {p : Port} (h : encode i = .port p) : decodePort p = .instr i := by
  have := decodeOfEncodeIsIdentity i
  rwa [h] at this

/-- An operation presented alone is run. -/
theorem run_presented {s t : State} {i : Instr} {p : Port} (hin : s.inputs = []) (hp : encode i = .port p)
    (h : exec i s = .next t) : Host.Core.run core 1 { s with inputs := [.host p] } = .next t := by
  have hquiet : ({ s with inputs := [] } : State) = s := by rw [← hin]
  have hstep := (stepRunsTheHostOperation { s with inputs := [.host p] } p [] rfl).1 i (decodePort_of_encode hp)
  exact run_one (hstep.trans ((congrArg (exec i) hquiet).trans h))

/-- The first TX_BUILD of an accepted operation. -/
def State.begun (s : State) (op : OpSel) (cmd : U16) (body exp : Shape) : State :=
  { (s.accept op).latch cmd body exp with st := .txBuild }

section
variable (s : State) (op : OpSel) (cmd : U16) (body exp : Shape)

@[simp] theorem State.begun_op : (s.begun op cmd body exp).op = op := rfl
@[simp] theorem State.begun_errKind : (s.begun op cmd body exp).errKind = .none := rfl
@[simp] theorem State.begun_lnt : (s.begun op cmd body exp).lnt = s.lnt := rfl
@[simp] theorem State.begun_txs : (s.begun op cmd body exp).txs = s.txs := rfl

theorem State.request_begun :
    (s.begun op cmd body exp).request = construct cmd (if body = .rnt then bytesOf s.rnt else []) := by
  rw [State.request, State.requestBody_eq_ite]
  rfl

end

/-! ## SEND_RECEIVE (42_command_response_engine.md R215 to R217) -/

theorem take_construct (cmd : U16) (body : List Byte) :
    (construct cmd body).take 4 = (frameHeader cmd body).take 4 := by
  rw [construct_eq]
  rfl

/-- An exchange outside a device operation ends in DONE. -/
theorem step_answered_done {s : State} {answer later : List Byte} (hin : s.inputs = []) (hop : s.seqOp = .none) :
    step (s.answered answer later) = .next { (s.answered answer later).copyBody.disarm with st := .done } :=
  step_of_turn hin ((engineStep_rxDecode _ rfl).trans (endExchange_of_no_device_op (by simpa using hop)))

/-- A table received stands in RXBODY whole. -/
theorem State.rxbody_answered {s : State} {answer later : List Byte} (hlen : answer.length = 1536) :
    bytesOf (s.answered answer later).rxbody = answer := by
  have htake := State.take_rxbody_answered (s := s) (later := later) hlen.le
  rwa [List.take_of_length_le (by rw [length_bytesOf, hlen])] at htake

/-- Settles O56: acceptance, the exchange, and RX_DECODE's copy. -/
theorem sendReceiveCompletesOnAnAck : Obligations.SendReceiveCompletesOnAnAck := by
  intro s cmd body exp p answer later hs hrest hvalid hp hlen hrxs frame
  have hframe : (s.begun .sendReceive cmd body exp).request = frame := s.request_begun _ _ _ _
  have hsize : answer.length = exp.size.toNat := by
    rw [hlen, Shape.size_eq_ite]
    split <;> rfl
  have hfits : answer.length ≤ 1536 := by rw [hlen]; split <;> omega
  have hstart := run_presented hs.1 hp (sendReceiveStartsTheExchange s cmd body exp hrest hvalid)
  have hexchange := run_answered (s := s.begun .sendReceive cmd body exp) hs rfl nofun hsize hrxs
  have hdone := run_one (step_answered_done (s := s.begun .sendReceive cmd body exp) (answer := answer)
    (later := later) hs.1 rfl)
  rw [hframe] at hexchange
  refine ⟨_, run_trans hstart (run_trans hexchange hdone rfl) (by omega), rfl, by simp, by simp [hframe], by simp,
    by simp, by simp, ?hdrLen, by simp [take_construct], rfl, rfl, by simp, ?table, ?noTable⟩
  case hdrLen => simp; omega
  case table =>
    rintro rfl
    exact ⟨State.rxbody_answered (later := later) hlen, rfl⟩
  case noTable =>
    rintro rfl
    exact ⟨rfl, rfl⟩

/-! ## The device operations (43_device_operations.md R240 to R248) -/

/-! ## The device operations (43_device_operations.md R240 to R248) -/

/-- TX_BUILD of the DISCONNECT exchange, the timer disarmed (R212, R241). -/
def State.disconnecting (s : State) : State :=
  { s with
    tmrArmed := false
    tmrExpired := false
    seqStep := .second
    argCmd := s.cfgDisconnect.code
    argBody := .none
    argExp := .none
    st := .txBuild }

/-- DONE of a device operation whose last exchange came to RX_DECODE in `s`. -/
def State.sequenced (s : State) : State :=
  { s with
    tmrArmed := false
    tmrExpired := false
    lntValid := s.lntValid || s.seqOp == .getNames
    st := .done }

theorem State.copyBody_of_none {s : State} (h : s.argExp = .none) : s.copyBody = s := by
  rw [State.copyBody, h]

section
variable {s : State} (hin : s.inputs = []) (hst : s.st = .rxDecode) (hop : s.seqOp ≠ .none) (hexp : s.argExp = .none)
include hin hst hop hexp

theorem step_rxDecode_of_device_op : step s = seqNext false s.disarm := by
  rw [step_nil hin, engineStep_rxDecode _ hst, phaseRxDecode_of_device_op hop, State.copyBody_of_none hexp]

/-- A first exchange that expects no table goes on with the DISCONNECT exchange. -/
theorem step_rxDecode_first (hstep : s.seqStep = .first) (hnames : s.seqOp ≠ .getNames) :
    step s = .next s.disconnecting :=
  (step_rxDecode_of_device_op hin hst hop hexp).trans (seqNext_first_ready hstep (.inl hnames))

/-- The DISCONNECT exchange ends the device operation. -/
theorem step_rxDecode_second (hstep : s.seqStep = .second) : step s = .next s.sequenced :=
  (step_rxDecode_of_device_op hin hst hop hexp).trans (seqNext_second false hstep)

end

/-- The DISCONNECT exchange, acknowledged. -/
theorem run_disconnecting {s : State} {later : List Byte} (hs : s.undisturbed) (hop : s.seqOp ≠ .none)
    (hsend : s.op ≠ .send) (hrxs : s.rxs = construct Config.opAck [] ++ later) :
    Host.Core.run core 23 s.disconnecting = .next (s.disconnecting.answered [] later).sequenced := by
  have hexchange := run_answered (s := s.disconnecting) hs rfl hsend rfl hrxs
  have hdone := run_one (step_rxDecode_second (s := s.disconnecting.answered [] later) hs.1 rfl hop rfl rfl)
  have hlen : s.disconnecting.request.length = 8 := length_construct _ _
  exact run_trans hexchange hdone (by rw [hlen]; rfl)

/-- Both exchanges of OP_RESET or OP_SET_NAMES, acknowledged. -/
theorem run_acked_twice {s : State} {later : List Byte}
    (hs : s.undisturbed) (hst : s.st = .txBuild)
    (hstep : s.seqStep = .first) (hop : s.seqOp ≠ .none) (hnames : s.seqOp ≠ .getNames) (hsend : s.op ≠ .send)
    (hexp : s.argExp = .none) (hrxs : s.rxs = construct Config.opAck [] ++ construct Config.opAck [] ++ later) :
    Host.Core.run core (s.request.length + 38) s =
      .next ((s.answered [] (construct Config.opAck [] ++ later)).disconnecting.answered [] later).sequenced := by
  rw [List.append_assoc] at hrxs
  have hfirst := run_answered hs hst hsend (by rw [hexp]; rfl) hrxs
  have hnext := run_one (step_rxDecode_first (s := s.answered [] (construct Config.opAck [] ++ later)) hs.1 rfl hop hexp
    hstep hnames)
  have hsecond := run_disconnecting (s := s.answered [] (construct Config.opAck [] ++ later)) (later := later) hs hop
    hsend rfl
  exact run_trans hfirst (run_trans hnext hsecond rfl) (by simp)

theorem sum8_bareAck : sum8 ((frameHeader Config.opAck []).take 4 ++ []) = 6 := by decide

/-- Settles O57: acceptance, then two exchanges of 8 bytes each way. -/
theorem opResetSendsResetThenDisconnect : Obligations.OpResetSendsResetThenDisconnect := by
  intro s p later hs hrest hp hrxs
  have hstart := run_presented hs.1 hp (deviceOperationsLoadTheirOperands s s.lnt hrest).1
  have hboth := run_acked_twice (s := s.begun .opReset Config.opResetUnit .none .none)
    hs rfl rfl nofun nofun nofun rfl hrxs
  exact ⟨_, run_trans hstart hboth rfl, rfl, rfl, rfl, rfl, rfl, rfl, rfl, rfl, sum8_bareAck, rfl, rfl, rfl⟩

/-! ### OP_SET_NAMES (R246) -/

/-- The name table loaded, and encoded in RNT. -/
def State.tableEncoded (s : State) (names : NameTable) : State :=
  { s with lnt := names, lntValid := true, rnt := encodeTable names, rntValid := true }

/-- TX_BUILD of OP_SET_NAMES, the table encoded. -/
abbrev State.settingNames (s : State) (names : NameTable) : State :=
  (s.tableEncoded names).begun .opSetNames Config.opSetChannelNames .rnt .none

theorem run_settingNames {s : State} {names : NameTable} {p : Port} (hs : s.undisturbed) (hrest : s.st.rest = true)
    (hp : encode (.opSetNames names) = .port p) :
    Host.Core.run core 2 { s with inputs := [.host p] } = .next (s.settingNames names) := by
  have hstart := run_presented hs.1 hp (deviceOperationsLoadTheirOperands s names hrest).2.2
  exact run_trans hstart (run_one (step_of_turn hs.1 (engineStep_nameEnc _ rfl))) rfl

theorem State.length_request_settingNames (s : State) (names : NameTable) :
    (s.settingNames names).request.length = 1544 := by
  rw [State.request_begun, if_pos rfl, length_construct, length_bytesOf]

/-- Settles O59: acceptance and NAME_ENC, then the exchange of the table and that of DISCONNECT. -/
theorem opSetNamesSendsTheEncodedTable : Obligations.OpSetNamesSendsTheEncodedTable := by
  intro s p names later hs hrest hp hrxs
  have hboth := run_acked_twice (s := s.settingNames names) hs rfl rfl nofun nofun nofun rfl hrxs
  rw [State.length_request_settingNames] at hboth
  exact ⟨_, run_trans (run_settingNames hs hrest hp) hboth rfl, rfl, rfl, rfl, rfl, rfl, rfl, rfl, rfl, rfl⟩

/-! ### OP_GET_NAMES (R244) -/

/-- NAME_DEC with the table received copied to RNT. -/
def State.tableCopied (s : State) : State :=
  { s with rnt := s.rxbody, rntValid := true, tmrArmed := false, tmrExpired := false, st := .nameDec }

/-- The table received copied to RNT and decoded into LNT. -/
def State.namesDecoded (s : State) : State :=
  { s with
    rnt := s.rxbody
    rntValid := true
    lnt := decodeTable s.rxbody
    nameUnterminated := tableUnterminated s.rxbody }

/-- After its first exchange OP_GET_NAMES copies the table, decodes it, and goes on with the DISCONNECT exchange. -/
theorem run_namesDecoded {s : State} (hin : s.inputs = []) (hst : s.st = .rxDecode) (hop : s.seqOp = .getNames)
    (hstep : s.seqStep = .first) (hexp : s.argExp = .rnt) :
    Host.Core.run core 2 s = .next s.namesDecoded.disconnecting := by
  have hcopy : s.copyBody = { s with rnt := s.rxbody, rntValid := true } := by rw [State.copyBody, hexp]
  have htoDecode : step s = .next s.tableCopied := by
    rw [step_nil hin, engineStep_rxDecode _ hst, phaseRxDecode_of_device_op (by simp [hop]), hcopy]
    exact seqNext_first_undecoded hstep hop
  have hdecode : phaseNameDec s.tableCopied = .next s.namesDecoded.disconnecting :=
    (phaseNameDec_of_getNames (s := s.tableCopied) hop).trans (seqNext_first_ready hstep (.inr rfl))
  exact run_trans (run_one htoDecode) (run_one (step_of_turn hin ((engineStep_nameDec _ rfl).trans hdecode))) rfl

/-- Settles O58: acceptance, the exchange that brings the table, its decoding, and the DISCONNECT exchange. -/
theorem opGetNamesReturnsTheDecodedTable : Obligations.OpGetNamesReturnsTheDecodedTable := by
  intro s p r later hs hrest hp hrxs
  rw [List.append_assoc] at hrxs
  let u : State := State.begun { s with lntValid := false } .opGetNames Config.opGetChannelNames .none .rnt
  have hlen : (bytesOf r).length = 1536 := length_bytesOf r
  have hstart := run_presented hs.1 hp (deviceOperationsLoadTheirOperands s s.lnt hrest).2.1
  have hfirst := run_answered (s := u) hs rfl nofun hlen hrxs
  have hnames := run_namesDecoded (s := u.answered (bytesOf r) (construct Config.opAck [] ++ later))
    hs.1 rfl rfl rfl rfl
  have hsecond := run_disconnecting (s := (u.answered (bytesOf r) (construct Config.opAck [] ++ later)).namesDecoded)
    (later := later) hs nofun nofun rfl
  have hrequest : u.request.length = 8 := length_construct _ _
  have hbody : (u.answered (bytesOf r) (construct Config.opAck [] ++ later)).rxbody = r :=
    buf_ext (State.rxbody_answered hlen)
  have hrun := run_trans hstart (run_trans hfirst (run_trans hnames hsecond rfl) rfl) rfl
  rw [hrequest, hlen] at hrun
  exact ⟨_, hrun, rfl, rfl, rfl, rfl, rfl, rfl, hbody, rfl, congrArg decodeTable hbody, rfl,
    congrArg tableUnterminated hbody⟩

/-! ### A NAK to the first exchange (R240, R248) -/

/-- FAILED after a NAK, with the request pushed and `later` left in RXS. -/
abbrev State.rejected (s : State) (len : U16) (csum : U32) (later : List Byte) : State :=
  (s.headed Config.opNak len csum later).raise (.deviceRejected Config.opNak)

/-- From TX_BUILD the request is pushed, a NAK taken, and the block stays in FAILED. -/
theorem run_rejected {s : State} {len : U16} {csum : U32} {later : List Byte}
    (hs : s.undisturbed) (hst : s.st = .txBuild)
    (hop : s.op ≠ .send) (hrxs : s.rxs = headerBytes Config.opNak len csum ++ later) (n : Nat) :
    Host.Core.run core (s.request.length + 12 + n) s = .next (s.rejected len csum later) := by
  have hnak : step (s.headed Config.opNak len csum later) = .next (s.rejected len csum later) :=
    step_of_turn hs.1 ((engineStep_rxValidate _ rfl).trans (phaseRxValidate_nak rfl))
  have hrest : step (s.rejected len csum later) = .next (s.rejected len csum later) :=
    step_of_turn hs.1 (engineStep_rest _ rfl)
  exact run_trans (run_trans (run_headed hs hst hop hrxs) (run_one hnak) rfl) (run_fixed hrest n) rfl

/-- Settles O60: the first exchange ends in FAILED, a rest state, before the sequencer has started another. -/
theorem rejectedFirstExchangeSendsNoDisconnect : Obligations.RejectedFirstExchangeSendsNoDisconnect := by
  refine ⟨fun s i p len csum later n hs hrest hi hp hrxs => ?_, fun s names p len csum later n hs hrest hp hrxs => ?_⟩
  · obtain ⟨hreset, hget, -⟩ := deviceOperationsLoadTheirOperands s s.lnt hrest
    rcases hi with rfl | rfl
    · have hreject := run_rejected (s := s.begun .opReset Config.opResetUnit .none .none) hs rfl nofun hrxs n
      rw [State.request_begun, length_construct] at hreject
      exact ⟨_, run_trans (run_presented hs.1 hp hreset) hreject (by simp; omega), rfl, rfl, rfl, rfl, rfl, rfl, rfl,
        (Bool.or_false _).trans hs.2.2.1, rfl, rfl⟩
    · have hreject := run_rejected
        (s := State.begun { s with lntValid := false } .opGetNames Config.opGetChannelNames .none .rnt) hs rfl nofun hrxs n
      rw [State.request_begun, length_construct] at hreject
      exact ⟨_, run_trans (run_presented hs.1 hp hget) hreject (by simp; omega), rfl, rfl, rfl, rfl, rfl, rfl, rfl,
        (Bool.or_false _).trans hs.2.2.1, rfl, rfl⟩
  · have hreject := run_rejected (s := s.settingNames names) hs rfl nofun hrxs n
    rw [State.length_request_settingNames] at hreject
    exact ⟨_, run_trans (run_settingNames hs hrest hp) hreject (by omega), rfl, rfl, rfl, rfl, rfl, rfl, rfl,
      (Bool.or_false _).trans hs.2.2.1, rfl, rfl, rfl, rfl⟩

/-! ## SEND, and TX_SEND under TX_PROGRESS (42_command_response_engine.md R192, 20_memory.md R70) -/

theorem step_requested_sent {s : State} (hin : s.inputs = []) (hop : s.op = .send) :
    step (s.requested s.request.length) = .next { s.requested s.request.length with st := .done } := by
  have hout : ¬ (s.requested s.request.length).txcnt < (s.requested s.request.length).txlen :=
    mt (s.requested_txcnt_lt_iff le_rfl).mp (lt_irrefl _)
  exact step_of_turn hin ((engineStep_txSend _ rfl).trans (phaseTxSend_sent hout hop))

/-- On an open stalled stream a step with a byte to push changes nothing. -/
theorem step_stalled {s : State} (hin : s.inputs = []) (hst : s.st = .txSend) (hlen : s.txlen.toNat ≤ 1544)
    (hlt : s.txcnt < s.txlen) (hopen : s.closed = false) (hstalled : s.txStalled = true) : step s = .next s := by
  obtain ⟨b, hb⟩ := s.getElem?_txbuf hlen hlt
  have hwait := State.pushOutcome_notYet.mpr ⟨hopen, .inr ⟨rfl, hstalled⟩⟩
  exact step_of_turn hin ((engineStep_txSend _ hst).trans (phaseTxSend_notYet hlt hb hwait))

/-- With no input left TX_PROGRESS fails exactly on an open stalled stream. -/
theorem State.not_txProgress_iff {s : State} (hin : s.inputs = []) :
    ¬ s.txProgress ↔ s.closed = false ∧ s.txStalled = true := by
  rw [State.txProgress, hin]
  cases s.closed <;> cases s.txStalled <;> simp [pushesHang]

/-- With the frame out, TX_SEND is left. -/
theorem step_txSend_out {s : State} (hin : s.inputs = []) (hst : s.st = .txSend) (hout : ¬ s.txcnt < s.txlen) :
    ∃ t, step s = .next t ∧ t.st ≠ .txSend := by
  by_cases hop : s.op = .send
  · exact ⟨_, step_of_turn hin ((engineStep_txSend _ hst).trans (phaseTxSend_sent hout hop)), nofun⟩
  · exact ⟨_, step_of_turn hin ((engineStep_txSend _ hst).trans (phaseTxSend_listen hout hop)), by simp⟩

/-- With no input left and TX_PROGRESS, the rest of the frame is pushed, or a push fails. -/
theorem leaves_txSend_of_no_input {s : State} (hs : s.Inv) (hst : s.st = .txSend) (hin : s.inputs = [])
    (hprogress : s.txProgress) : ∃ n t, Host.Core.run core n s = .next t ∧ t.st ≠ .txSend := by
  induction hleft : s.txlen.toNat - s.txcnt.toNat generalizing s with
  | zero =>
    obtain ⟨t, ht, hmoved⟩ := step_txSend_out hin hst (by rw [BitVec.lt_def]; omega)
    exact ⟨1, t, run_one ht, hmoved⟩
  | succ k ih =>
    have hlt : s.txcnt < s.txlen := by rw [BitVec.lt_def]; omega
    obtain ⟨b, hb⟩ := s.getElem?_txbuf hs.registers.txlen_le hlt
    cases hclosed : s.closed with
    | true =>
      have hfail := phaseTxSend_writeFail hlt hb (State.pushOutcome_closed .ready hclosed)
      exact ⟨1, _, run_one (step_of_turn hin ((engineStep_txSend _ hst).trans hfail)), by simp⟩
    | false =>
      have hflow : s.txStalled = false := by
        by_contra hstalled
        exact (State.not_txProgress_iff hin).mpr ⟨hclosed, by simpa using hstalled⟩ hprogress
      have hpush := step_of_turn hin ((engineStep_txSend _ hst).trans
        (phaseTxSend_accepted hlt hb (s.pushOutcome_ready hclosed hflow)))
      obtain ⟨n, t, hrun, hmoved⟩ := ih (stepKeepsTheInvariant _ _ hs hpush) hst hin hprogress
        (show s.txlen.toNat - (s.txcnt + 1).toNat = k by bv_omega)
      exact ⟨n + 1, t, (run_succ hpush).trans hrun, hmoved⟩

/-- An engine turn leaves the inputs and the stream's condition alone. -/
theorem Turn.keeps_environment {s t : State} (h : Turn s t) :
    t.inputs = s.inputs ∧ t.closed = s.closed ∧ t.txStalled = s.txStalled := by
  cases h with
  | stay | build | push | sent | takeHeader | parsed | accepted | takeBody | bodyThere | verified | encoded
  | encodedToSend | decoded | decodedToDisconnect | decodedAtEnd => exact ⟨rfl, rfl, rfl⟩
  | writeFail | failed | listen | received | toDecode | toDisconnect | sequenced => simp

/-- In a busy state a step uses up one input, and what TX_PROGRESS says of the others stays. -/
theorem step_keeps_txProgress {s t : State} {i : Input} {rest : List Input} (hbusy : s.st.rest = false)
    (hin : s.inputs = i :: rest) (h : step s = .next t) (hprogress : s.txProgress) :
    t.inputs = rest ∧ t.txProgress := by
  rw [State.txProgress, hin] at hprogress
  rw [step_cons hin] at h
  cases i with
  | host p =>
    have hrefused := hostIssues_refused (p := p) (s := { s with inputs := rest }) (.inl hbusy)
    cases hrefused.symm.trans h
    exact ⟨rfl, hprogress⟩
  | peer | close | stall | resume => cases h; exact ⟨rfl, hprogress⟩
  | expire =>
    cases h
    refine ⟨by simp, ?_⟩
    rw [State.txProgress, State.expire_inputs, State.expire_txStalled, State.expire_closed]
    exact hprogress
  | reset fresh => cases fresh <;> cases h <;> exact ⟨rfl, hprogress⟩
  | engine c =>
    obtain ⟨hinputs, hclosed, hstalled⟩ := (turn_of_engineStep h).keeps_environment
    refine ⟨hinputs, ?_⟩
    rw [State.txProgress, hinputs, hclosed, hstalled]
    exact hprogress

/-- Under TX_PROGRESS TX_SEND is left, whatever the inputs are. -/
theorem leaves_txSend {s : State} (hs : s.Inv) (hst : s.st = .txSend) (hprogress : s.txProgress) :
    ∃ n t, Host.Core.run core n s = .next t ∧ t.st ≠ .txSend := by
  induction hin : s.inputs generalizing s with
  | nil => exact leaves_txSend_of_no_input hs hst hin hprogress
  | cons i rest ih =>
    obtain ⟨t, ht⟩ := stepNeverStops s hs
    by_cases hstays : t.st = .txSend
    · obtain ⟨hinputs, hnext⟩ := step_keeps_txProgress (by rw [hst]; rfl) hin ht hprogress
      obtain ⟨n, u, hrun, hmoved⟩ := ih (stepKeepsTheInvariant s t hs ht) hstays hnext hinputs
      exact ⟨n + 1, u, (run_succ ht).trans hrun, hmoved⟩
    · exact ⟨1, t, run_one ht, hstays⟩

/-- A SEND on an undisturbed stream: acceptance, TX_BUILD, the whole frame, DONE. -/
theorem run_send {s : State} {cmd : U16} {body : Shape} {p : Port} (hs : s.undisturbed) (hrest : s.st.rest = true)
    (hvalid : body = .rnt → s.rntValid = true) (hp : encode (.send cmd body) = .port p) {u : State}
    (hu : u = s.begun .send cmd body s.argExp) :
    Host.Core.run core (u.request.length + 3) { s with inputs := [.host p] } =
      .next { u.requested u.request.length with st := .done } := by
  subst hu
  have hstart := run_presented hs.1 hp (sendStartsTheFrame s cmd body hrest hvalid)
  have hpush := run_requested (s := s.begun .send cmd body s.argExp) hs rfl
  have hdone := run_one (step_requested_sent (s := s.begun .send cmd body s.argExp) hs.1 rfl)
  exact run_trans hstart (run_trans hpush hdone rfl) (by omega)

/-- A SEND on a stream that is open and stays stalled: no byte of the frame is pushed. -/
theorem run_send_stalled {s : State} {cmd : U16} {body : Shape} {p : Port}
    (hin : s.inputs = []) (hopen : s.closed = false)
    (hstalled : s.txStalled = true) (hrest : s.st.rest = true) (hvalid : body = .rnt → s.rntValid = true)
    (hp : encode (.send cmd body) = .port p) (n : Nat) :
    Host.Core.run core (2 + n) { s with inputs := [.host p] } =
      .next ((s.begun .send cmd body s.argExp).requested 0) := by
  have hstart := run_presented hin hp (sendStartsTheFrame s cmd body hrest hvalid)
  have hbuild := run_one (step_txBuild (s := s.begun .send cmd body s.argExp) hin rfl)
  have hlen := State.toNat_requested_txlen (s.begun .send cmd body s.argExp) 0
  have hlt := (State.requested_txcnt_lt_iff (s.begun .send cmd body s.argExp) (Nat.zero_le _)).mpr (by simp)
  have hstays := step_stalled (s := (s.begun .send cmd body s.argExp).requested 0) hin rfl
    (hlen.trans_le (State.length_request_le _)) hlt hopen hstalled
  exact run_trans (run_trans hstart hbuild rfl) (run_fixed hstays n) rfl

/-- Settles O55: the run of a SEND, the induction over the inputs, and the stalled step that changes nothing. -/
theorem sendPushesTheWholeFrame : Obligations.SendPushesTheWholeFrame := by
  refine ⟨?sends, fun s => leaves_txSend, fun s hs hst hlt hin hstuck => ?hangs,
    fun s cmd body p n hs hrest hvalid hp => ?stalled⟩
  case sends =>
    intro s cmd body p hs hrest hvalid hp frame
    have hframe : (s.begun .send cmd body s.argExp).request = frame := s.request_begun _ _ _ _
    rw [← hframe]
    exact ⟨_, run_send hs hrest hvalid hp rfl, rfl, rfl, congrArg (s.txs ++ ·) List.take_length, rfl,
      State.toNat_txlen_build _, rfl, rfl, rfl, rfl, rfl, rfl⟩
  case hangs =>
    obtain ⟨hopen, hstalled⟩ := (State.not_txProgress_iff hin).mp hstuck
    exact ⟨by rw [State.busy, hst]; rfl, run_fixed (step_stalled hin hst hs.registers.txlen_le hlt hopen hstalled)⟩
  case stalled =>
    have hrun := run_send_stalled (s := { s with txStalled := true }) hs.1 hs.2.1 rfl hrest hvalid hp n
    exact ⟨_, hrun, rfl, rfl, rfl, List.append_nil _, rfl⟩

end Sys2Proof.Machine
end
